-- ==== Sys2Proof/Word.lean ====
section
/-! DEFINITION. The two word types of GBE-CORE (spec 00_scope.md R5: `XLEN8`, `XLEN16`). Every operation over them
(slices, extension, byte order) stands in Machine/Bits.lean. -/

namespace Sys2Proof

/-- A general register, the flag byte or a memory cell: 8 bits (R5 `XLEN8`). -/
abbrev Byte := BitVec 8

/-- `SP`, `PC`, a register pair or an address: 16 bits (R5 `XLEN16`). -/
abbrev Word := BitVec 16

end Sys2Proof
end

