-- ==== Sys2Proof/Machine/Bits.lean ====
section
/-! DEFINITION. Slices, extension and concatenation of bytes and words (spec 00_scope.md R10). -/

namespace Sys2Proof

/-- `hi(w) = w[15:8]` (R10). -/
def hi (w : Word) : Byte := w.extractLsb' 8 8

/-- `lo(w) = w[7:0]` (R10). -/
def lo (w : Word) : Byte := w.extractLsb' 0 8

/-- `h:l`, concatenation `(h << 8) | l` (R10). -/
def word (h l : Byte) : Word := h ++ l

/-- `zext_16(b)` (R10). -/
def zext16 (b : Byte) : Word := b.setWidth 16

/-- `sext_16(b)`: `b` if `b < 0x80`, else `0xFF00 | b` (R10). -/
def sext16 (b : Byte) : Word := if b < 0x80 then zext16 b else 0xFF00 ||| zext16 b

/-- The byte as a signed integer: `b` if `b < 128`, else `b - 256` (R10). -/
def signed (b : Byte) : Int := if b < 0x80 then (b.toNat : Int) else (b.toNat : Int) - 256

/-- One bit of a byte, `v[i]` (R10). -/
def bit (v : Byte) (i : Nat) : Bool := v.getLsbD i

/-- A bit as a byte 0 or 1, `b2n` (R10). -/
def b2n (b : Bool) : Byte := if b then 1 else 0

end Sys2Proof
end

