-- ==== Sys2Proof/Syntax.lean ====
section
/-! DEFINITION. The instructions of GBE-CORE as syntax: one constructor per row of spec/opcode_table.json, in the table's order.
Operand selectors are the tables of spec 30_encoding.md R103 to R106; immediates are R109 to R113. -/

namespace Sys2Proof

/-- The 8-bit register operands `r`: the register codes of R103 but code 6, which is `(HL)` and a row of its own. -/
inductive Reg8 where
  | b | c | d | e | h | l | a
  deriving DecidableEq, Repr

/-- The register pairs `rr` of R104. -/
inductive Pair where
  | bc | de | hl | sp
  deriving DecidableEq, Repr

/-- The push and pop pairs `qq` of R105. -/
inductive PairQ where
  | bc | de | hl | af
  deriving DecidableEq, Repr

/-- The conditions `cc` of R106. -/
inductive Cond where
  | nz | z | nc | c
  deriving DecidableEq, Repr

/-- The instructions. `n` and `e` are the byte after the opcode, `nn` the two bytes after it (R109 to R111); `t` is the restart
index of R112, `b` the bit index of R113. -/
inductive Instr where
  /-- `NOP` (R290). -/
  | nop
  /-- `LD rr,nn` (R160). -/
  | ldRrNn (p : Pair) (nn : Word)
  /-- `LD (BC),A` (R138). -/
  | ldBcA
  /-- `LD (DE),A` (R139). -/
  | ldDeA
  /-- `LD (HL+),A` (R149). -/
  | ldHlIncA
  /-- `LD (HL-),A` (R147). -/
  | ldHlDecA
  /-- `INC rr` (R221). -/
  | incRr (p : Pair)
  /-- `INC r` (R197). -/
  | incR (r : Reg8)
  /-- `INC (HL)` (R198). -/
  | incHl
  /-- `DEC r` (R199). -/
  | decR (r : Reg8)
  /-- `DEC (HL)` (R200). -/
  | decHl
  /-- `LD r,n` (R132). -/
  | ldRN (r : Reg8) (n : Byte)
  /-- `LD (HL),n` (R135). -/
  | ldHlN (n : Byte)
  /-- `RLCA` (R230). -/
  | rlca
  /-- `RRCA` (R232). -/
  | rrca
  /-- `RLA` (R231). -/
  | rla
  /-- `RRA` (R233). -/
  | rra
  /-- `LD (nn),SP` (R161). -/
  | ldNnSp (nn : Word)
  /-- `ADD HL,rr` (R220). -/
  | addHlRr (p : Pair)
  /-- `LD A,(BC)` (R136). -/
  | ldABc
  /-- `LD A,(DE)` (R137). -/
  | ldADe
  /-- `LD A,(HL+)` (R148). -/
  | ldAHlInc
  /-- `LD A,(HL-)` (R146). -/
  | ldAHlDec
  /-- `DEC rr` (R222). -/
  | decRr (p : Pair)
  /-- `STOP` (R292). -/
  | stop
  /-- `JR e` (R274). -/
  | jrE (e : Byte)
  /-- `JR cc,e` (R275). -/
  | jrCcE (cc : Cond) (e : Byte)
  /-- `DAA` (R201). -/
  | daa
  /-- `CPL` (R202). -/
  | cpl
  /-- `SCF` (R203). -/
  | scf
  /-- `CCF` (R204). -/
  | ccf
  /-- `LD r,r'` (R131). -/
  | ldRR (dst : Reg8) (r : Reg8)
  /-- `LD r,(HL)` (R133). -/
  | ldRHl (dst : Reg8)
  /-- `LD (HL),r` (R134). -/
  | ldHlR (r : Reg8)
  /-- `HALT` (R291). -/
  | halt
  /-- `ADD A,r` (R173). -/
  | addAR (r : Reg8)
  /-- `ADD A,(HL)` (R174). -/
  | addAHl
  /-- `ADD A,n` (R175). -/
  | addAN (n : Byte)
  /-- `ADC A,r` (R176). -/
  | adcAR (r : Reg8)
  /-- `ADC A,(HL)` (R177). -/
  | adcAHl
  /-- `ADC A,n` (R178). -/
  | adcAN (n : Byte)
  /-- `SUB r` (R179). -/
  | subR (r : Reg8)
  /-- `SUB (HL)` (R180). -/
  | subHl
  /-- `SUB n` (R181). -/
  | subN (n : Byte)
  /-- `SBC A,r` (R182). -/
  | sbcAR (r : Reg8)
  /-- `SBC A,(HL)` (R183). -/
  | sbcAHl
  /-- `SBC A,n` (R184). -/
  | sbcAN (n : Byte)
  /-- `AND r` (R185). -/
  | andR (r : Reg8)
  /-- `AND (HL)` (R186). -/
  | andHl
  /-- `AND n` (R187). -/
  | andN (n : Byte)
  /-- `XOR r` (R188). -/
  | xorR (r : Reg8)
  /-- `XOR (HL)` (R189). -/
  | xorHl
  /-- `XOR n` (R190). -/
  | xorN (n : Byte)
  /-- `OR r` (R191). -/
  | orR (r : Reg8)
  /-- `OR (HL)` (R192). -/
  | orHl
  /-- `OR n` (R193). -/
  | orN (n : Byte)
  /-- `CP r` (R194). -/
  | cpR (r : Reg8)
  /-- `CP (HL)` (R195). -/
  | cpHl
  /-- `CP n` (R196). -/
  | cpN (n : Byte)
  /-- `RET cc` (R279). -/
  | retCc (cc : Cond)
  /-- `POP qq` (R165). -/
  | pop (q : PairQ)
  /-- `JP cc,nn` (R272). -/
  | jpCcNn (cc : Cond) (nn : Word)
  /-- `JP nn` (R271). -/
  | jpNn (nn : Word)
  /-- `CALL cc,nn` (R277). -/
  | callCcNn (cc : Cond) (nn : Word)
  /-- `PUSH qq` (R164). -/
  | push (q : PairQ)
  /-- `RST t` (R281). -/
  | rst (t : Fin 8)
  /-- `RET` (R278). -/
  | ret
  /-- `RETI` (R280). -/
  | reti
  /-- the prefix byte 0xCB and the extended opcode `o2` after it, undecoded: a second spelling of the extended-page instruction of `o2`, which the decoder never gives (log entry 6) (R295). -/
  | prefixCb (o2 : Byte)
  /-- `CALL nn` (R276). -/
  | callNn (nn : Word)
  /-- `LDH (n),A` (R145). -/
  | ldhNA (n : Byte)
  /-- `LDH (C),A` (R143). -/
  | ldhCA
  /-- `ADD SP,e` (R223). -/
  | addSpE (e : Byte)
  /-- `JP HL` (R273). -/
  | jpHl
  /-- `LD (nn),A` (R141). -/
  | ldNnA (nn : Word)
  /-- `LDH A,(n)` (R144). -/
  | ldhAN (n : Byte)
  /-- `LDH A,(C)` (R142). -/
  | ldhAC
  /-- `DI` (R293). -/
  | di
  /-- `LD HL,SP+e` (R163). -/
  | ldHlSpE (e : Byte)
  /-- `LD SP,HL` (R162). -/
  | ldSpHl
  /-- `LD A,(nn)` (R140). -/
  | ldANn (nn : Word)
  /-- `EI` (R294). -/
  | ei
  /-- undefined opcode 0xD3 (R296). -/
  | undefD3
  /-- undefined opcode 0xDB (R296). -/
  | undefDB
  /-- undefined opcode 0xDD (R296). -/
  | undefDD
  /-- undefined opcode 0xE3 (R296). -/
  | undefE3
  /-- undefined opcode 0xE4 (R296). -/
  | undefE4
  /-- undefined opcode 0xEB (R296). -/
  | undefEB
  /-- undefined opcode 0xEC (R296). -/
  | undefEC
  /-- undefined opcode 0xED (R296). -/
  | undefED
  /-- undefined opcode 0xF4 (R296). -/
  | undefF4
  /-- undefined opcode 0xFC (R296). -/
  | undefFC
  /-- undefined opcode 0xFD (R296). -/
  | undefFD
  /-- `RLC r` (R235). -/
  | rlcR (r : Reg8)
  /-- `RLC (HL)` (R236). -/
  | rlcHl
  /-- `RRC r` (R237). -/
  | rrcR (r : Reg8)
  /-- `RRC (HL)` (R238). -/
  | rrcHl
  /-- `RL r` (R239). -/
  | rlR (r : Reg8)
  /-- `RL (HL)` (R240). -/
  | rlHl
  /-- `RR r` (R241). -/
  | rrR (r : Reg8)
  /-- `RR (HL)` (R242). -/
  | rrHl
  /-- `SLA r` (R243). -/
  | slaR (r : Reg8)
  /-- `SLA (HL)` (R244). -/
  | slaHl
  /-- `SRA r` (R245). -/
  | sraR (r : Reg8)
  /-- `SRA (HL)` (R246). -/
  | sraHl
  /-- `SWAP r` (R247). -/
  | swapR (r : Reg8)
  /-- `SWAP (HL)` (R248). -/
  | swapHl
  /-- `SRL r` (R249). -/
  | srlR (r : Reg8)
  /-- `SRL (HL)` (R250). -/
  | srlHl
  /-- `BIT b,r` (R251). -/
  | bitBR (b : Fin 8) (r : Reg8)
  /-- `BIT b,(HL)` (R252). -/
  | bitBHl (b : Fin 8)
  /-- `RES b,r` (R253). -/
  | resBR (b : Fin 8) (r : Reg8)
  /-- `RES b,(HL)` (R254). -/
  | resBHl (b : Fin 8)
  /-- `SET b,r` (R255). -/
  | setBR (b : Fin 8) (r : Reg8)
  /-- `SET b,(HL)` (R256). -/
  | setBHl (b : Fin 8)
  deriving DecidableEq, Repr

end Sys2Proof
end

