-- ==== Sys2Proof/Decode.lean ====
section
/-! DEFINITION. The decoder and, after it, the encoder, both written from spec 30_encoding.md R100 to R118.
The decoder is total: `decodeOp` gives an instruction for every opcode byte (the eleven undefined bytes of R116 are rows of the
table of their own), `decode` reads one instruction off the front of a byte list and rejects by name a list that is too short. -/

namespace Sys2Proof

/-! ### The fields of an opcode byte (R102) -/

/-- `x = o[7:6]`. -/
def fieldX (o : Byte) : Nat := o.toNat / 64

/-- `y = o[5:3]`. -/
def fieldY (o : Byte) : Nat := o.toNat / 8 % 8

/-- `z = o[2:0]`. -/
def fieldZ (o : Byte) : Nat := o.toNat % 8

/-- `p = o[5:4]`. -/
def fieldP (o : Byte) : Nat := o.toNat / 16 % 4

/-- `q = o[3]`. -/
def fieldQ (o : Byte) : Nat := o.toNat / 8 % 2

/-- `c = o[4:3]`. -/
def fieldC (o : Byte) : Nat := o.toNat / 8 % 4

/-! ### Operand selectors (R103 to R106, R112, R113) -/

/-- The register a 3-bit code selects; code 6 is `(HL)` and selects none (R103). -/
def selReg (code : Nat) : Option Reg8 :=
  match code with
  | 0 => some .b
  | 1 => some .c
  | 2 => some .d
  | 3 => some .e
  | 4 => some .h
  | 5 => some .l
  | 6 => none
  | _ => some .a

/-- R104. -/
def selPair (code : Nat) : Pair :=
  match code with
  | 0 => .bc
  | 1 => .de
  | 2 => .hl
  | _ => .sp

/-- R105. -/
def selPairQ (code : Nat) : PairQ :=
  match code with
  | 0 => .bc
  | 1 => .de
  | 2 => .hl
  | _ => .af

/-- R106. -/
def selCond (code : Nat) : Cond :=
  match code with
  | 0 => .nz
  | 1 => .z
  | 2 => .nc
  | _ => .c

/-- The bit index or restart index in field `y` (R112, R113). -/
def selIdx (o : Byte) : Fin 8 := ⟨fieldY o, Nat.mod_lt _ (by decide)⟩

/-! ### The base page (R114), one definition per quarter `x`

`n` is the byte after the opcode and `h` the byte after that; a row that has no such operand does not look at them. -/

/-- Opcodes 0x00 to 0x3F. -/
def decodeX0 (o n h : Byte) : Instr :=
  match fieldZ o with
  | 0 =>
    match fieldY o with
    | 0 => .nop
    | 1 => .ldNnSp (word h n)
    | 2 => .stop
    | 3 => .jrE n
    | _ => .jrCcE (selCond (fieldC o)) n
  | 1 => if fieldQ o = 0 then .ldRrNn (selPair (fieldP o)) (word h n) else .addHlRr (selPair (fieldP o))
  | 2 =>
    match fieldY o with
    | 0 => .ldBcA
    | 1 => .ldABc
    | 2 => .ldDeA
    | 3 => .ldADe
    | 4 => .ldHlIncA
    | 5 => .ldAHlInc
    | 6 => .ldHlDecA
    | _ => .ldAHlDec
  | 3 => if fieldQ o = 0 then .incRr (selPair (fieldP o)) else .decRr (selPair (fieldP o))
  | 4 =>
    match selReg (fieldY o) with
    | some r => .incR r
    | none => .incHl
  | 5 =>
    match selReg (fieldY o) with
    | some r => .decR r
    | none => .decHl
  | 6 =>
    match selReg (fieldY o) with
    | some r => .ldRN r n
    | none => .ldHlN n
  | _ =>
    match fieldY o with
    | 0 => .rlca
    | 1 => .rrca
    | 2 => .rla
    | 3 => .rra
    | 4 => .daa
    | 5 => .cpl
    | 6 => .scf
    | _ => .ccf

/-- Opcodes 0x40 to 0x7F: `LD` between registers and `(HL)`, and `HALT` in the place of `LD (HL),(HL)` (R117). -/
def decodeX1 (o : Byte) : Instr :=
  match selReg (fieldY o), selReg (fieldZ o) with
  | some dst, some r => .ldRR dst r
  | some dst, none => .ldRHl dst
  | none, some r => .ldHlR r
  | none, none => .halt

/-- Opcodes 0x80 to 0xBF: the ALU operation `y` (R107) on a register or `(HL)`. -/
def decodeX2 (o : Byte) : Instr :=
  match fieldY o, selReg (fieldZ o) with
  | 0, some r => .addAR r
  | 0, none => .addAHl
  | 1, some r => .adcAR r
  | 1, none => .adcAHl
  | 2, some r => .subR r
  | 2, none => .subHl
  | 3, some r => .sbcAR r
  | 3, none => .sbcAHl
  | 4, some r => .andR r
  | 4, none => .andHl
  | 5, some r => .xorR r
  | 5, none => .xorHl
  | 6, some r => .orR r
  | 6, none => .orHl
  | _, some r => .cpR r
  | _, none => .cpHl

/-! ### The extended page (R108, R115) -/

/-- The extended-page instruction that the byte after 0xCB selects. -/
def decodeExtended (o : Byte) : Instr :=
  match fieldX o, selReg (fieldZ o) with
  | 0, some r =>
    match fieldY o with
    | 0 => .rlcR r
    | 1 => .rrcR r
    | 2 => .rlR r
    | 3 => .rrR r
    | 4 => .slaR r
    | 5 => .sraR r
    | 6 => .swapR r
    | _ => .srlR r
  | 0, none =>
    match fieldY o with
    | 0 => .rlcHl
    | 1 => .rrcHl
    | 2 => .rlHl
    | 3 => .rrHl
    | 4 => .slaHl
    | 5 => .sraHl
    | 6 => .swapHl
    | _ => .srlHl
  | 1, some r => .bitBR (selIdx o) r
  | 1, none => .bitBHl (selIdx o)
  | 2, some r => .resBR (selIdx o) r
  | 2, none => .resBHl (selIdx o)
  | _, some r => .setBR (selIdx o) r
  | _, none => .setBHl (selIdx o)

/-- Opcodes 0xC0 to 0xFF; 0xCB hands the next byte to the extended page (R118). -/
def decodeX3 (o n h : Byte) : Instr :=
  match fieldZ o with
  | 0 =>
    match fieldY o with
    | 4 => .ldhNA n
    | 5 => .addSpE n
    | 6 => .ldhAN n
    | 7 => .ldHlSpE n
    | _ => .retCc (selCond (fieldC o))
  | 1 =>
    if fieldQ o = 0 then .pop (selPairQ (fieldP o)) else
    match fieldP o with
    | 0 => .ret
    | 1 => .reti
    | 2 => .jpHl
    | _ => .ldSpHl
  | 2 =>
    match fieldY o with
    | 4 => .ldhCA
    | 5 => .ldNnA (word h n)
    | 6 => .ldhAC
    | 7 => .ldANn (word h n)
    | _ => .jpCcNn (selCond (fieldC o)) (word h n)
  | 3 =>
    match fieldY o with
    | 0 => .jpNn (word h n)
    | 1 => decodeExtended n
    | 2 => .undefD3
    | 3 => .undefDB
    | 4 => .undefE3
    | 5 => .undefEB
    | 6 => .di
    | _ => .ei
  | 4 =>
    match fieldY o with
    | 4 => .undefE4
    | 5 => .undefEC
    | 6 => .undefF4
    | 7 => .undefFC
    | _ => .callCcNn (selCond (fieldC o)) (word h n)
  | 5 =>
    if fieldQ o = 0 then .push (selPairQ (fieldP o)) else
    match fieldP o with
    | 0 => .callNn (word h n)
    | 1 => .undefDD
    | 2 => .undefED
    | _ => .undefFD
  | 6 =>
    match fieldY o with
    | 0 => .addAN n
    | 1 => .adcAN n
    | 2 => .subN n
    | 3 => .sbcAN n
    | 4 => .andN n
    | 5 => .xorN n
    | 6 => .orN n
    | _ => .cpN n
  | _ => .rst (selIdx o)

/-- The instruction whose bytes are `o`, `n`, `h` in ascending address order, as far as it has that many (R114, R118). -/
def decodeOp (o n h : Byte) : Instr :=
  match fieldX o with
  | 0 => decodeX0 o n h
  | 1 => decodeX1 o
  | 2 => decodeX2 o
  | _ => decodeX3 o n h

/-- The number of bytes of an instruction, from the format of its row (R100). -/
def Instr.length (i : Instr) : Nat :=
  match i with
  | .ldRrNn _ _ | .ldNnSp _ | .jpCcNn _ _ | .jpNn _ | .callCcNn _ _ | .callNn _ | .ldNnA _ | .ldANn _ => 3
  | .ldRN _ _ | .ldHlN _ | .jrE _ | .jrCcE _ _ | .addAN _ | .adcAN _ | .subN _ | .sbcAN _ | .andN _ | .xorN _ | .orN _
  | .cpN _ | .prefixCb _ | .ldhNA _ | .addSpE _ | .ldhAN _ | .ldHlSpE _ | .rlcR _ | .rlcHl | .rrcR _ | .rrcHl | .rlR _
  | .rlHl | .rrR _ | .rrHl | .slaR _ | .slaHl | .sraR _ | .sraHl | .swapR _ | .swapHl | .srlR _ | .srlHl | .bitBR _ _
  | .bitBHl _ | .resBR _ _ | .resBHl _ | .setBR _ _ | .setBHl _ => 2
  | .nop | .ldBcA | .ldDeA | .ldHlIncA | .ldHlDecA | .incRr _ | .incR _ | .incHl | .decR _ | .decHl | .rlca | .rrca | .rla
  | .rra | .addHlRr _ | .ldABc | .ldADe | .ldAHlInc | .ldAHlDec | .decRr _ | .stop | .daa | .cpl | .scf | .ccf | .ldRR _ _
  | .ldRHl _ | .ldHlR _ | .halt | .addAR _ | .addAHl | .adcAR _ | .adcAHl | .subR _ | .subHl | .sbcAR _ | .sbcAHl | .andR _
  | .andHl | .xorR _ | .xorHl | .orR _ | .orHl | .cpR _ | .cpHl | .retCc _ | .pop _ | .push _ | .rst _ | .ret | .reti
  | .ldhCA | .jpHl | .ldhAC | .di | .ldSpHl | .ei | .undefD3 | .undefDB | .undefDD | .undefE3 | .undefE4 | .undefEB
  | .undefEC | .undefED | .undefF4 | .undefFC | .undefFD => 1

/-- The number of bytes an opcode byte announces: "look the byte up in the base page; the row's format gives the length" (R101). -/
def opLength (o : Byte) : Nat := (decodeOp o 0 0).length

/-- Why a byte list is not read as an instruction. -/
inductive DecodeError where
  /-- The list is empty. -/
  | noBytes
  /-- The list ends before the operand bytes that its opcode byte announces. -/
  | truncated
  deriving DecidableEq, Repr

/-- Read one instruction off the front of a byte list, and answer it with the bytes after it. -/
def decode (bytes : List Byte) : Except DecodeError (Instr × List Byte) :=
  match bytes with
  | [] => .error .noBytes
  | o :: rest =>
    match opLength o, rest with
    | 1, rest => .ok (decodeOp o 0 0, rest)
    | 2, n :: rest => .ok (decodeOp o n 0, rest)
    | 3, n :: h :: rest => .ok (decodeOp o n h, rest)
    | _, _ => .error .truncated

/-! ### The encoder (R103 to R106, R112 to R115) -/

/-- R103. -/
def Reg8.code (r : Reg8) : Byte :=
  match r with
  | .b => 0
  | .c => 1
  | .d => 2
  | .e => 3
  | .h => 4
  | .l => 5
  | .a => 7

/-- R104. -/
def Pair.code (p : Pair) : Byte :=
  match p with
  | .bc => 0
  | .de => 1
  | .hl => 2
  | .sp => 3

/-- R105. -/
def PairQ.code (q : PairQ) : Byte :=
  match q with
  | .bc => 0
  | .de => 1
  | .hl => 2
  | .af => 3

/-- R106. -/
def Cond.code (cc : Cond) : Byte :=
  match cc with
  | .nz => 0
  | .z => 1
  | .nc => 2
  | .c => 3

/-- R112, R113. -/
def idxCode (k : Fin 8) : Byte := BitVec.ofNat 8 k.val

/-- The bytes of an instruction in ascending address order. -/
def encode (i : Instr) : List Byte :=
  match i with
  | .nop => [0x00]
  | .ldRrNn p nn => [(0x01 : Byte) ||| p.code <<< 4, lo nn, hi nn]
  | .ldBcA => [0x02]
  | .ldDeA => [0x12]
  | .ldHlIncA => [0x22]
  | .ldHlDecA => [0x32]
  | .incRr p => [(0x03 : Byte) ||| p.code <<< 4]
  | .incR r => [(0x04 : Byte) ||| r.code <<< 3]
  | .incHl => [0x34]
  | .decR r => [(0x05 : Byte) ||| r.code <<< 3]
  | .decHl => [0x35]
  | .ldRN r n => [(0x06 : Byte) ||| r.code <<< 3, n]
  | .ldHlN n => [0x36, n]
  | .rlca => [0x07]
  | .rrca => [0x0F]
  | .rla => [0x17]
  | .rra => [0x1F]
  | .ldNnSp nn => [0x08, lo nn, hi nn]
  | .addHlRr p => [(0x09 : Byte) ||| p.code <<< 4]
  | .ldABc => [0x0A]
  | .ldADe => [0x1A]
  | .ldAHlInc => [0x2A]
  | .ldAHlDec => [0x3A]
  | .decRr p => [(0x0B : Byte) ||| p.code <<< 4]
  | .stop => [0x10]
  | .jrE e => [0x18, e]
  | .jrCcE cc e => [(0x20 : Byte) ||| cc.code <<< 3, e]
  | .daa => [0x27]
  | .cpl => [0x2F]
  | .scf => [0x37]
  | .ccf => [0x3F]
  | .ldRR dst r => [(0x40 : Byte) ||| dst.code <<< 3 ||| r.code]
  | .ldRHl dst => [(0x46 : Byte) ||| dst.code <<< 3]
  | .ldHlR r => [(0x70 : Byte) ||| r.code]
  | .halt => [0x76]
  | .addAR r => [(0x80 : Byte) ||| r.code]
  | .addAHl => [0x86]
  | .addAN n => [0xC6, n]
  | .adcAR r => [(0x88 : Byte) ||| r.code]
  | .adcAHl => [0x8E]
  | .adcAN n => [0xCE, n]
  | .subR r => [(0x90 : Byte) ||| r.code]
  | .subHl => [0x96]
  | .subN n => [0xD6, n]
  | .sbcAR r => [(0x98 : Byte) ||| r.code]
  | .sbcAHl => [0x9E]
  | .sbcAN n => [0xDE, n]
  | .andR r => [(0xA0 : Byte) ||| r.code]
  | .andHl => [0xA6]
  | .andN n => [0xE6, n]
  | .xorR r => [(0xA8 : Byte) ||| r.code]
  | .xorHl => [0xAE]
  | .xorN n => [0xEE, n]
  | .orR r => [(0xB0 : Byte) ||| r.code]
  | .orHl => [0xB6]
  | .orN n => [0xF6, n]
  | .cpR r => [(0xB8 : Byte) ||| r.code]
  | .cpHl => [0xBE]
  | .cpN n => [0xFE, n]
  | .retCc cc => [(0xC0 : Byte) ||| cc.code <<< 3]
  | .pop q => [(0xC1 : Byte) ||| q.code <<< 4]
  | .jpCcNn cc nn => [(0xC2 : Byte) ||| cc.code <<< 3, lo nn, hi nn]
  | .jpNn nn => [0xC3, lo nn, hi nn]
  | .callCcNn cc nn => [(0xC4 : Byte) ||| cc.code <<< 3, lo nn, hi nn]
  | .push q => [(0xC5 : Byte) ||| q.code <<< 4]
  | .rst t => [(0xC7 : Byte) ||| idxCode t <<< 3]
  | .ret => [0xC9]
  | .reti => [0xD9]
  | .prefixCb o2 => [0xCB, o2]
  | .callNn nn => [0xCD, lo nn, hi nn]
  | .ldhNA n => [0xE0, n]
  | .ldhCA => [0xE2]
  | .addSpE e => [0xE8, e]
  | .jpHl => [0xE9]
  | .ldNnA nn => [0xEA, lo nn, hi nn]
  | .ldhAN n => [0xF0, n]
  | .ldhAC => [0xF2]
  | .di => [0xF3]
  | .ldHlSpE e => [0xF8, e]
  | .ldSpHl => [0xF9]
  | .ldANn nn => [0xFA, lo nn, hi nn]
  | .ei => [0xFB]
  | .undefD3 => [0xD3]
  | .undefDB => [0xDB]
  | .undefDD => [0xDD]
  | .undefE3 => [0xE3]
  | .undefE4 => [0xE4]
  | .undefEB => [0xEB]
  | .undefEC => [0xEC]
  | .undefED => [0xED]
  | .undefF4 => [0xF4]
  | .undefFC => [0xFC]
  | .undefFD => [0xFD]
  | .rlcR r => [0xCB, (0x00 : Byte) ||| r.code]
  | .rlcHl => [0xCB, 0x06]
  | .rrcR r => [0xCB, (0x08 : Byte) ||| r.code]
  | .rrcHl => [0xCB, 0x0E]
  | .rlR r => [0xCB, (0x10 : Byte) ||| r.code]
  | .rlHl => [0xCB, 0x16]
  | .rrR r => [0xCB, (0x18 : Byte) ||| r.code]
  | .rrHl => [0xCB, 0x1E]
  | .slaR r => [0xCB, (0x20 : Byte) ||| r.code]
  | .slaHl => [0xCB, 0x26]
  | .sraR r => [0xCB, (0x28 : Byte) ||| r.code]
  | .sraHl => [0xCB, 0x2E]
  | .swapR r => [0xCB, (0x30 : Byte) ||| r.code]
  | .swapHl => [0xCB, 0x36]
  | .srlR r => [0xCB, (0x38 : Byte) ||| r.code]
  | .srlHl => [0xCB, 0x3E]
  | .bitBR b r => [0xCB, (0x40 : Byte) ||| idxCode b <<< 3 ||| r.code]
  | .bitBHl b => [0xCB, (0x46 : Byte) ||| idxCode b <<< 3]
  | .resBR b r => [0xCB, (0x80 : Byte) ||| idxCode b <<< 3 ||| r.code]
  | .resBHl b => [0xCB, (0x86 : Byte) ||| idxCode b <<< 3]
  | .setBR b r => [0xCB, (0xC0 : Byte) ||| idxCode b <<< 3 ||| r.code]
  | .setBHl b => [0xCB, (0xC6 : Byte) ||| idxCode b <<< 3]

/-! ### The host's word -/

/-- The byte with number `k` of a word whose bit 0 is the least significant bit of the first byte. -/
def tableByte (w k : Nat) : Byte := BitVec.ofNat 8 (w / 256 ^ k)

/-- The word `w` cut to `nbits` bits and laid out as bytes at ascending addresses; the longest instruction has three bytes (R100)
and the bits above `nbits` are 0. -/
def tableBytes (nbits w : Nat) : List Byte :=
  let v := w % 2 ^ nbits
  [tableByte v 0, tableByte v 1, tableByte v 2]

/-- The instruction the decoder reads from a word numbered as spec/opcode_table.json numbers it. The table prints an extended-page
row without its prefix byte; such a row's word is the two bytes of 30_encoding.md R100, 0xCB first (log entry 12). -/
def decodeTableWord (nbits w : Nat) : Option Instr :=
  match decode (tableBytes nbits w) with
  | .ok (i, _) => some i
  | .error _ => none

end Sys2Proof
end

