-- ==== Sys2Proof/Config.lean ====
section
/-! DEFINITION. The parameters of spec 00_scope.md R5 whose value the spec fixes, each under the spec's name.
The two OPEN parameters, `ROM` and `BOOT_ROM`, are the fields `rom` and `bootRom` of State (log entries 1 and 2), so that
a statement over all states quantifies over them. The spec leaves no value free (93_implementation_defined.md, end of Part 1),
so no opaque constant stands here. -/

namespace Sys2Proof.Config

/-- `UNMAPPED_READ` (R5, D9): what a read of an unmapped address returns. -/
def unmappedRead : Byte := 0xFF

/-- `ECHO_MIRRORS_WRAM` (R5, R79, D8). -/
def echoMirrorsWram : Bool := false

/-- `RAM_INIT` (R5, D39): every byte of VRAM, ERAM, WRAM, OAM and HRAM after reset. It is also what an address that a memory
does not list reads as, in the two ROM images too (log entries 2 and 5). -/
def unlistedByte : Byte := 0x00

/-- `INT_DISPATCH_UNITS` (R5, R305, D15). -/
def intDispatchUnits : Nat := 5

/-- `HALT_IDLE_UNITS` (R5, R320, D18). -/
def haltIdleUnits : Nat := 1

/-- `PPU_OAM_UNITS` (R5, R340). -/
def ppuOamUnits : Nat := 20

/-- `PPU_XFER_UNITS` (R5, R340). -/
def ppuXferUnits : Nat := 43

/-- `PPU_HBLANK_UNITS` (R5, R340). -/
def ppuHblankUnits : Nat := 51

/-- `PPU_VBLANK_LINE_UNITS` (R5, R345, D28). -/
def ppuVblankLineUnits : Nat := 126

/-- `LYC_REQUIRES_STAT6` (R5, R350, D30). -/
def lycRequiresStat6 : Bool := false

/-- `TIMER_UNITS_PER_SUB` (R5, R331, D25). -/
def timerUnitsPerSub : Nat := 1

/-- `TIMER_DIV_PERIOD` (R5, R331). -/
def timerDivPeriod : Nat := 16

/-- `TIMER_THRESHOLD[0..3]` (R5, R331), indexed by the clock-select. -/
def timerThreshold (select : BitVec 2) : Nat :=
  match select.toNat with
  | 0 => 64
  | 1 => 1
  | 2 => 4
  | _ => 16

/-- The least `length(ROM)` (R5, R97, D10). -/
def romMinLength : Nat := 0x8000

/-- The length of `BOOT_ROM` (R5, R97, D6). -/
def bootRomLength : Nat := 0x100

end Sys2Proof.Config
end

