-- ==== Sys2Proof/Machine/Store.lean ====
section
/-! DEFINITION. Sparse storage as a list of (key, value) pairs in one canonical form: keys strictly rising, no value equal to
`dflt`, which is what an unlisted key reads as. Used for the memories and for the pixel buffer. -/

namespace Sys2Proof.Machine

/-- The value at key `a`; an unlisted key reads as `dflt`. -/
def lookup {β : Type} (dflt : β) : List (Nat × β) → Nat → β
  | [], _ => dflt
  | (k, v) :: rest, a => if a = k then v else lookup dflt rest a

/-- The list with `v` at key `a`, keeping the canonical form. -/
def update {β : Type} [DecidableEq β] (dflt : β) : List (Nat × β) → Nat → β → List (Nat × β)
  | [], a, v => if v = dflt then [] else [(a, v)]
  | (k, w) :: rest, a, v =>
    if a < k then
      if v = dflt then (k, w) :: rest else (a, v) :: (k, w) :: rest
    else if a = k then
      if v = dflt then rest else (a, v) :: rest
    else (k, w) :: update dflt rest a v

/-- The canonical form of a sparse store. -/
abbrev Canonical {β : Type} (dflt : β) (l : List (Nat × β)) : Prop :=
  l.Pairwise (fun p q => p.1 < q.1) ∧ ∀ p ∈ l, p.2 ≠ dflt

end Sys2Proof.Machine
end

