-- ==== Sys2Proof/Machine/State.lean ====
section
/-! DEFINITION. The state of GBE-CORE as plain data (spec 10_state.md), the reasons a step can stop, and the state after reset
(R61). Every field names the rule it comes from. -/

namespace Sys2Proof.Machine

/-- The four named bits of the flag byte `F` (R22). Bits 3..0 always read as 0 (R23), so they are no storage: the byte is
`Flags.toByte` of Machine/Flags.lean (log entry 4). -/
structure Flags where
  /-- Zero, bit 7. -/
  z : Bool
  /-- Subtract, bit 6. -/
  n : Bool
  /-- Half-Carry, bit 5. -/
  h : Bool
  /-- Carry, bit 4. -/
  c : Bool
  deriving DecidableEq, Repr

/-- The register file: the seven general registers (R20), `F` (R22), `SP` (R24), `PC` (R25). -/
structure Regs where
  a : Byte
  b : Byte
  c : Byte
  d : Byte
  e : Byte
  h : Byte
  l : Byte
  f : Flags
  sp : Word
  pc : Word
  deriving DecidableEq, Repr

/-- A memory: the listed cells in canonical form; an unlisted address reads as `Config.unlistedByte` (log entry 5). -/
structure Memory where
  cells : List Host.Cell
  deriving DecidableEq, Repr

/-- The timer (R33). -/
structure Timer where
  div : Byte
  tima : Byte
  tma : Byte
  /-- Bit 2 enable, bits 1..0 clock-select (R41). -/
  tac : BitVec 3
  /-- Sub-counter advances since the last divider increment. -/
  tsub : Nat
  /-- Sub-counter advances toward the next `TIMA` increment. -/
  tacc : Nat
  /-- Units toward the next sub-counter advance. -/
  traw : Nat
  deriving DecidableEq, Repr

/-- The four modes of the picture generator (R34). -/
inductive PpuMode where
  | oamScan | pixelTransfer | hblank | vblank
  deriving DecidableEq, Repr

/-- A colour cell: a 2-bit shade (R58). -/
abbrev Shade := BitVec 2

/-- A row of 160 cells of shade 0 (R58, R61). -/
def blankRow : List Shade := List.replicate 160 0

/-- The pixel buffer, 160 by 144 cells (R58): the rows that are not blank, by line number in rising order; a line that is not
listed is blank (log entry 14). -/
structure PixelBuffer where
  rows : List (Nat × List Shade)
  deriving DecidableEq, Repr

/-- The picture generator (R34) and its output, the pixel buffer (R58). -/
structure Ppu where
  mode : PpuMode
  ly : Byte
  /-- Units since the last transition. -/
  pcnt : Nat
  lcdc : Byte
  /-- `STAT[6:3]`: bit 0 horizontal-blank, 1 vertical-blank, 2 OAM-scan, 3 line-compare source enable (R44). -/
  stat : BitVec 4
  scy : Byte
  scx : Byte
  lyc : Byte
  bgp : Byte
  obp0 : Byte
  obp1 : Byte
  wy : Byte
  wx : Byte
  pix : PixelBuffer
  deriving DecidableEq, Repr

/-- The input latch (R35). -/
structure Joypad where
  psel : BitVec 2
  /-- 1 = pressed; bit 0 Right, 1 Left, 2 Up, 3 Down, 4 A, 5 B, 6 Select, 7 Start. -/
  buttons : Byte
  deriving DecidableEq, Repr

/-- The kinds of diagnostic event (R57). -/
inductive DiagnosticKind where
  | unimplementedOpcode
  deriving DecidableEq, Repr

/-- One record of the diagnostic event stream (R57). -/
structure Diagnostic where
  kind : DiagnosticKind
  addr : Word
  byte : Byte
  deriving DecidableEq, Repr

/-- The whole state of the machine, with the two image parameters `ROM` and `BOOT_ROM` (R5, log entry 1). -/
structure State where
  /-- R20 to R25. -/
  regs : Regs
  /-- `IME` (R27). -/
  ime : Bool
  /-- `IE` (R28). -/
  ie : Byte
  /-- `IF` (R29). -/
  iflag : Byte
  /-- R30. -/
  halted : Bool
  /-- R31. -/
  boot : Bool
  /-- `ROM` (R5, R75), keys 0x0000..0x7FFF; no step and no reset changes it. -/
  rom : Memory
  /-- `BOOT_ROM` (R5, R74), keys 0x00..0xFF; no step and no reset changes it. -/
  bootRom : Memory
  /-- `VRAM`, `ERAM`, `WRAM`, `OAM`, `HRAM` (R32), each byte under its address in the address space (R71). -/
  ram : Memory
  /-- R33. -/
  timer : Timer
  /-- R34, R58. -/
  ppu : Ppu
  /-- R35. -/
  joypad : Joypad
  /-- The diagnostic event stream, oldest record first (R57). -/
  diags : List Diagnostic
  /-- The cost of the last step in units: what `cost <- n` sets and `Step()` returns (R11, R122; log entry 3). -/
  cost : Nat
  deriving DecidableEq, Repr

/-- Why the machine stops with a fault: it never does. "There are no synchronous exceptions" (R311), address decoding is total
(R72), an undefined opcode records a diagnostic and goes on (R296). Nobody raises a value of this type. -/
inductive Fault : Type
  deriving DecidableEq, Repr

/-- Why an instruction is refused. -/
inductive Refusal where
  /-- Raised by a `.refused` arm of `exec` for an instruction that has no meaning yet: safe, it stops where the machine goes on.
  No arm raises it now. -/
  | notModelled (mnemonic : String)
  deriving DecidableEq, Repr

/-- The state after reset on the given images (R61, R381): every element at the value of the table of R61, the images as they are.
`cost` is no stored state in the spec; its 0 is a DESIGN CHOICE (log entry 3). -/
def State.resetOn (rom bootRom : Memory) : State where
  regs :=
    { a := 0x00, b := 0x00, c := 0x00, d := 0x00, e := 0x00, h := 0x00, l := 0x00
      f := { z := false, n := false, h := false, c := false }
      sp := 0x0000, pc := 0x0000 }
  ime := false
  ie := 0x00
  iflag := 0x00
  halted := false
  boot := true
  rom := rom
  bootRom := bootRom
  ram := { cells := [] }
  timer := { div := 0x00, tima := 0x00, tma := 0x00, tac := 0b000, tsub := 0, tacc := 0, traw := 0 }
  ppu :=
    { mode := .oamScan, ly := 0, pcnt := 0, lcdc := 0x00, stat := 0b0000, scy := 0x00, scx := 0x00, lyc := 0x00
      bgp := 0x00, obp0 := 0x00, obp1 := 0x00, wy := 0x00, wx := 0x00, pix := { rows := [] } }
  joypad := { psel := 0b00, buttons := 0x00 }
  diags := []
  cost := 0

/-- The machine right after reset (R61), with nothing listed in any memory: both OPEN images are blank (DESIGN CHOICE, log
entry 2; how a program comes to run from here is log entry 13). -/
def State.reset : State := State.resetOn { cells := [] } { cells := [] }

end Sys2Proof.Machine
end

