-- ==== Sys2Proof/Machine/Flags.lean ====
section
/-! DEFINITION. The flag byte and every flag computation of the spec: the ALU functions of 42_alu8.md R170 to R172, the 16-bit
additions of 43_alu16.md R220, R223 and 41_load16.md R163, the shift functions of 44_rotate_shift_bit.md R234, and `DAA`
(42_alu8.md R201). -/

namespace Sys2Proof.Machine

/-- The flag byte: Z N H C in bits 7..4, bits 3..0 zero (R22, R23). -/
def Flags.toByte (f : Flags) : Byte := b2n f.z <<< 7 ||| b2n f.n <<< 6 ||| b2n f.h <<< 5 ||| b2n f.c <<< 4

/-- The flags a popped byte gives: bits 7..4; bits 3..0 are dropped (R21, R23, R165). -/
def Flags.ofByte (v : Byte) : Flags := { z := bit v 7, n := bit v 6, h := bit v 5, c := bit v 4 }

/-- A flag as the integer 0 or 1. -/
def carryIn (c : Bool) : Nat := if c then 1 else 0

/-- What an ALU function returns: a byte and the four flags (R170). -/
structure AluOut where
  res : Byte
  flags : Flags
  deriving DecidableEq, Repr

/-- `add8(a, b, cin)` (R170). -/
def add8 (a b : Byte) (cin : Bool) : AluOut :=
  let sum := a.toNat + b.toNat + carryIn cin
  let res := BitVec.ofNat 8 sum
  { res := res
    flags :=
      { z := res == 0
        n := false
        h := decide ((a &&& 0x0F).toNat + (b &&& 0x0F).toNat + carryIn cin > 0x0F)
        c := decide (sum > 0xFF) } }

/-- `sub8(a, b, cin)` (R171); the flags are borrows. -/
def sub8 (a b : Byte) (cin : Bool) : AluOut :=
  let diff : Int := (a.toNat : Int) - b.toNat - carryIn cin
  let res := BitVec.ofInt 8 diff
  { res := res
    flags :=
      { z := res == 0
        n := true
        h := decide (((a &&& 0x0F).toNat : Int) - (b &&& 0x0F).toNat - carryIn cin < 0)
        c := decide (diff < 0) } }

/-- `and8(a, b)` (R172). -/
def and8 (a b : Byte) : AluOut :=
  { res := a &&& b, flags := { z := a &&& b == 0, n := false, h := true, c := false } }

/-- `xor8(a, b)` (R172). -/
def xor8 (a b : Byte) : AluOut :=
  { res := a ^^^ b, flags := { z := a ^^^ b == 0, n := false, h := false, c := false } }

/-- `or8(a, b)` (R172). -/
def or8 (a b : Byte) : AluOut :=
  { res := a ||| b, flags := { z := a ||| b == 0, n := false, h := false, c := false } }

/-- The result and flags of `INC` of a byte; Carry is not written (R197, R198). -/
def inc8 (v : Byte) (f : Flags) : AluOut :=
  let w := v + 1
  { res := w, flags := { z := w == 0, n := false, h := v &&& 0x0F == 0x0F, c := f.c } }

/-- The result and flags of `DEC` of a byte; Carry is not written (R199, R200). -/
def dec8 (v : Byte) (f : Flags) : AluOut :=
  let w := v - 1
  { res := w, flags := { z := w == 0, n := true, h := v &&& 0x0F == 0x00, c := f.c } }

/-- `DAA` (R201): both tests of the branch `flag.N = 0` use the value of `a` before any adjustment. -/
def daa8 (a : Byte) (f : Flags) : AluOut :=
  if f.n = false then
    let low : Byte := if f.h || decide (a &&& 0x0F > 0x09) then 0x06 else 0x00
    let carry := f.c || decide (a > 0x99)
    let high : Byte := if carry then 0x60 else 0x00
    let res := a + (low ||| high)
    { res := res, flags := { z := res == 0, n := f.n, h := false, c := carry } }
  else
    let low : Byte := if f.h then 0x06 else 0x00
    let high : Byte := if f.c then 0x60 else 0x00
    let res := a - (low ||| high)
    { res := res, flags := { z := res == 0, n := f.n, h := false, c := f.c } }

/-- What a 16-bit addition returns. -/
structure Alu16Out where
  res : Word
  flags : Flags
  deriving DecidableEq, Repr

/-- `ADD HL,rr`: carries out of bits 11 and 15; Zero is not written (R220). -/
def addHl16 (a b : Word) (f : Flags) : Alu16Out :=
  let sum := a.toNat + b.toNat
  { res := BitVec.ofNat 16 sum
    flags :=
      { z := f.z
        n := false
        h := decide ((a &&& 0x0FFF).toNat + (b &&& 0x0FFF).toNat > 0x0FFF)
        c := decide (sum > 0xFFFF) } }

/-- `SP + e`: the sum with `e` sign-extended first; the carries are those of the low byte of `SP` and the unsigned byte `e`
(R163, R223). -/
def addSp16 (s : Word) (e : Byte) : Alu16Out :=
  { res := s + sext16 e
    flags :=
      { z := false
        n := false
        h := decide ((s &&& 0x000F).toNat + (e &&& 0x0F).toNat > 0x0F)
        c := decide ((s &&& 0x00FF).toNat + e.toNat > 0xFF) } }

/-- What a shift function returns: the byte and the bit shifted out (R234). -/
structure ShiftOut where
  res : Byte
  c : Bool
  deriving DecidableEq, Repr

/-- `rlc(v)` (R234). -/
def rlc (v : Byte) : ShiftOut := { res := v <<< 1 ||| b2n (bit v 7), c := bit v 7 }

/-- `rrc(v)` (R234). -/
def rrc (v : Byte) : ShiftOut := { res := v >>> 1 ||| b2n (bit v 0) <<< 7, c := bit v 0 }

/-- `rl(v, cin)` (R234). -/
def rl (v : Byte) (cin : Bool) : ShiftOut := { res := v <<< 1 ||| b2n cin, c := bit v 7 }

/-- `rr(v, cin)` (R234). -/
def rr (v : Byte) (cin : Bool) : ShiftOut := { res := v >>> 1 ||| b2n cin <<< 7, c := bit v 0 }

/-- `sla(v)` (R234). -/
def sla (v : Byte) : ShiftOut := { res := v <<< 1, c := bit v 7 }

/-- `sra(v)` (R234). -/
def sra (v : Byte) : ShiftOut := { res := v >>> 1 ||| v &&& 0x80, c := bit v 0 }

/-- `swap(v)` (R234). -/
def swap (v : Byte) : ShiftOut := { res := (v &&& 0x0F) <<< 4 ||| v >>> 4, c := false }

/-- `srl(v)` (R234). -/
def srl (v : Byte) : ShiftOut := { res := v >>> 1, c := bit v 0 }

/-- The flags after an extended-page rotate or shift (R234). -/
def ShiftOut.flags (o : ShiftOut) : Flags := { z := o.res == 0, n := false, h := false, c := o.c }

/-- The flags after `RLCA`, `RLA`, `RRCA`, `RRA`: Zero is cleared whatever the result (R230 to R233). -/
def ShiftOut.flagsNoZero (o : ShiftOut) : Flags := { z := false, n := false, h := false, c := o.c }

/-- The flags after `BIT b`: Carry is not written (R251, R252). -/
def bitFlags (v : Byte) (b : Fin 8) (f : Flags) : Flags := { z := !bit v b.val, n := false, h := true, c := f.c }

/-- `v & ~(1 << b)` (R253, R254). -/
def resBit (v : Byte) (b : Fin 8) : Byte := v &&& ~~~((1 : Byte) <<< b.val)

/-- `v | (1 << b)` (R255, R256). -/
def setBit (v : Byte) (b : Fin 8) : Byte := v ||| (1 : Byte) <<< b.val

end Sys2Proof.Machine
end

