-- ==== Sys2Proof/Machine/Operands.lean ====
section
/-! DEFINITION. Every operand form of the spec that is no memory access: 8-bit registers, pairs, conditions, the high page and the
pointer of `(HL)` (spec 10_state.md R20, R21; 30_encoding.md R103 to R106, R109; 45_control.md R270). -/

namespace Sys2Proof.Machine

/-! ### The register file -/

/-- `x[r]`. -/
def Regs.reg (g : Regs) (r : Reg8) : Byte :=
  match r with
  | .b => g.b
  | .c => g.c
  | .d => g.d
  | .e => g.e
  | .h => g.h
  | .l => g.l
  | .a => g.a

/-- `x[r] <- v`. -/
def Regs.setReg (g : Regs) (r : Reg8) (v : Byte) : Regs :=
  match r with
  | .b => { g with b := v }
  | .c => { g with c := v }
  | .d => { g with d := v }
  | .e => { g with e := v }
  | .h => { g with h := v }
  | .l => { g with l := v }
  | .a => { g with a := v }

/-- `x[rr]`, the pair by concatenation (R21, R104). -/
def Regs.pair (g : Regs) (p : Pair) : Word :=
  match p with
  | .bc => word g.b g.c
  | .de => word g.d g.e
  | .hl => word g.h g.l
  | .sp => g.sp

/-- `x[rr] <- w`, both halves (R21, R104). -/
def Regs.setPair (g : Regs) (p : Pair) (w : Word) : Regs :=
  match p with
  | .bc => { g with b := hi w, c := lo w }
  | .de => { g with d := hi w, e := lo w }
  | .hl => { g with h := hi w, l := lo w }
  | .sp => { g with sp := w }

/-- `x[qq]` (R21, R105). -/
def Regs.pairQ (g : Regs) (q : PairQ) : Word :=
  match q with
  | .bc => word g.b g.c
  | .de => word g.d g.e
  | .hl => word g.h g.l
  | .af => word g.a g.f.toByte

/-- `x[qq] <- w`; for `AF` the low nibble of the low byte is dropped (R21, R23, R105). -/
def Regs.setPairQ (g : Regs) (q : PairQ) (w : Word) : Regs :=
  match q with
  | .bc => { g with b := hi w, c := lo w }
  | .de => { g with d := hi w, e := lo w }
  | .hl => { g with h := hi w, l := lo w }
  | .af => { g with a := hi w, f := Flags.ofByte (lo w) }

/-! ### The same on the state, and the one-field updates -/

/-- `x[r]` of the state. -/
def State.reg (s : State) (r : Reg8) : Byte := s.regs.reg r

/-- `x[r] <- v` on the state. -/
def State.setReg (s : State) (r : Reg8) (v : Byte) : State := { s with regs := s.regs.setReg r v }

/-- `x[rr]` of the state. -/
def State.pair (s : State) (p : Pair) : Word := s.regs.pair p

/-- `x[rr] <- w` on the state. -/
def State.setPair (s : State) (p : Pair) (w : Word) : State := { s with regs := s.regs.setPair p w }

/-- `x[qq]` of the state. -/
def State.pairQ (s : State) (q : PairQ) : Word := s.regs.pairQ q

/-- `x[qq] <- w` on the state. -/
def State.setPairQ (s : State) (q : PairQ) (w : Word) : State := { s with regs := s.regs.setPairQ q w }

/-- The flags of the state. -/
def State.flags (s : State) : Flags := s.regs.f

/-- Write all four flags. -/
def State.setFlags (s : State) (f : Flags) : State := { s with regs := { s.regs with f := f } }

/-- `x[PC] <- w`. -/
def State.setPc (s : State) (w : Word) : State := { s with regs := { s.regs with pc := w } }

/-- `x[SP] <- w`. -/
def State.setSp (s : State) (w : Word) : State := { s with regs := { s.regs with sp := w } }

/-- `IME <- b`. -/
def State.setIme (s : State) (b : Bool) : State := { s with ime := b }

/-- `halted <- b`. -/
def State.setHalted (s : State) (b : Bool) : State := { s with halted := b }

/-- `IF <- v`. -/
def State.setIf (s : State) (v : Byte) : State := { s with iflag := v }

/-- `cost <- n`. -/
def State.setCost (s : State) (n : Nat) : State := { s with cost := n }

/-- Store an ALU result in the accumulator and write its flags (R173 to R193). -/
def State.accumulate (s : State) (o : AluOut) : State :=
  { s with regs := { s.regs with a := o.res, f := o.flags } }

/-! ### Pointers and conditions -/

/-- `x[HL]`, the address of the operand `(HL)` (R21, R103). -/
def State.hl (s : State) : Word := s.pair .hl

/-- The address `0xFF00 + zext_16(v)` of the high page (R109, R142 to R145). -/
def highPage (v : Byte) : Word := 0xFF00 + zext16 v

/-- `cond(cc)` (R106, R270). -/
def Flags.cond (f : Flags) (cc : Cond) : Bool :=
  match cc with
  | .nz => !f.z
  | .z => f.z
  | .nc => !f.c
  | .c => f.c

end Sys2Proof.Machine
end

