-- ==== Sys2Proof/Machine/Bus.lean ====
section
/-! DEFINITION. The bus: the address decoder, `ReadByte` and `WriteByte`, the I/O window, the OAM bulk transfer and the word
accesses (spec 20_memory.md R70 to R98; register formats 10_state.md R36 to R55). -/

namespace Sys2Proof.Machine

/-! ### Memories -/

/-- Read one cell. -/
def Memory.read (m : Memory) (a : Nat) : Byte := lookup Config.unlistedByte m.cells a

/-- Write one cell, keeping the canonical form. -/
def Memory.write (m : Memory) (a : Nat) (v : Byte) : Memory := { cells := update Config.unlistedByte m.cells a v }

/-- The canonical form: addresses strictly rising, no listed cell that an unlisted one would read as. -/
abbrev Memory.wf (m : Memory) : Prop := Canonical Config.unlistedByte m.cells

/-! ### The partition (R71) -/

/-- The twelve rows of R71, with the two ROM rows 0x0100..0x3FFF and 0x4000..0x7FFF as one: nothing tells them apart (R75). -/
inductive Region where
  | bootOverlay | rom | vram | eram | wram | echo | oam | gap | io | hram | interruptEnable
  deriving DecidableEq, Repr

/-- The row of R71 that holds an address. -/
def regionOf (a : Word) : Region :=
  if a.toNat < 0x0100 then .bootOverlay
  else if a.toNat < 0x8000 then .rom
  else if a.toNat < 0xA000 then .vram
  else if a.toNat < 0xC000 then .eram
  else if a.toNat < 0xE000 then .wram
  else if a.toNat < 0xFE00 then .echo
  else if a.toNat < 0xFEA0 then .oam
  else if a.toNat < 0xFF00 then .gap
  else if a.toNat < 0xFF80 then .io
  else if a.toNat < 0xFFFF then .hram
  else .interruptEnable

/-- The registers of the I/O window and its unmapped offsets (R36, R82). -/
inductive IoReg where
  | p1 | div | tima | tma | tac | iflag | lcdc | stat | scy | scx | ly | lyc | dma | bgp | obp0 | obp1 | wy | wx | unmapped
  deriving DecidableEq, Repr

/-- What an offset of the I/O window is routed to (R82). -/
def ioReg (off : Nat) : IoReg :=
  match off with
  | 0x00 => .p1
  | 0x04 => .div
  | 0x05 => .tima
  | 0x06 => .tma
  | 0x07 => .tac
  | 0x0F => .iflag
  | 0x40 => .lcdc
  | 0x41 => .stat
  | 0x42 => .scy
  | 0x43 => .scx
  | 0x44 => .ly
  | 0x45 => .lyc
  | 0x46 => .dma
  | 0x47 => .bgp
  | 0x48 => .obp0
  | 0x49 => .obp1
  | 0x4A => .wy
  | 0x4B => .wx
  | _ => .unmapped

/-- The I/O register at an address of the window: `off = addr - 0xFF00` (R82). -/
def ioRegAt (a : Word) : IoReg := ioReg (a - 0xFF00).toNat

/-- The address of the work-RAM cell that an address of 0xE000..0xFDFF mirrors when `ECHO_MIRRORS_WRAM` (R79). -/
def echoTarget (a : Word) : Nat := (a - 0x2000).toNat

/-! ### Reading -/

/-- The code of a mode in `STAT[1:0]` (R44). -/
def PpuMode.code (m : PpuMode) : Byte :=
  match m with
  | .hblank => 0
  | .vblank => 1
  | .oamScan => 2
  | .pixelTransfer => 3

/-- The key nibble of `P1`: 0 = pressed in a selected group (R37). -/
def Joypad.keys (j : Joypad) : Byte :=
  let direction : Byte := if j.psel.getLsbD 0 then 0 else j.buttons &&& (0x0F : Byte)
  let action : Byte := if j.psel.getLsbD 1 then 0 else j.buttons >>> 4
  0x0F &&& ~~~(direction ||| action)

/-- The read format of `P1` (R37). -/
def Joypad.readP1 (j : Joypad) : Byte := (0xC0 : Byte) ||| j.psel.setWidth 8 <<< 4 ||| j.keys

/-- The read format of `STAT` (R44). -/
def Ppu.readStat (p : Ppu) : Byte :=
  (0x80 : Byte) ||| p.stat.setWidth 8 <<< 3 ||| b2n (p.ly == p.lyc) <<< 2 ||| p.mode.code

/-- The read format of `TAC` (R41). -/
def Timer.readTac (t : Timer) : Byte := (0xF8 : Byte) ||| t.tac.setWidth 8

/-- What a read of an I/O register returns (R37 to R54, R82). -/
def State.readIo (s : State) (r : IoReg) : Byte :=
  match r with
  | .p1 => s.joypad.readP1
  | .div => s.timer.div
  | .tima => s.timer.tima
  | .tma => s.timer.tma
  | .tac => s.timer.readTac
  | .iflag => s.iflag
  | .lcdc => s.ppu.lcdc
  | .stat => s.ppu.readStat
  | .scy => s.ppu.scy
  | .scx => s.ppu.scx
  | .ly => s.ppu.ly
  | .lyc => s.ppu.lyc
  | .dma => Config.unmappedRead
  | .bgp => s.ppu.bgp
  | .obp0 => s.ppu.obp0
  | .obp1 => s.ppu.obp1
  | .wy => s.ppu.wy
  | .wx => s.ppu.wx
  | .unmapped => Config.unmappedRead

/-- The byte that `ReadByte(a)` returns (R72, R74 to R84). -/
def State.peek (s : State) (a : Word) : Byte :=
  match regionOf a with
  | .bootOverlay => if s.boot then s.bootRom.read a.toNat else s.rom.read a.toNat
  | .rom => s.rom.read a.toNat
  | .vram => s.ram.read a.toNat
  | .eram => s.ram.read a.toNat
  | .wram => s.ram.read a.toNat
  | .echo => if Config.echoMirrorsWram then s.ram.read (echoTarget a) else Config.unmappedRead
  | .oam => s.ram.read a.toNat
  | .gap => Config.unmappedRead
  | .io => s.readIo (ioRegAt a)
  | .hram => s.ram.read a.toNat
  | .interruptEnable => s.ie

/-- The state after `ReadByte(a)`: the read of 0x0100 clears `boot`, no other read changes anything (R72, R74, R89). -/
def State.afterRead (s : State) (a : Word) : State := if a = 0x0100 then { s with boot := false } else s

/-- `ReadByte(a)`: the byte and the state after the read (R72). -/
def State.readByte (s : State) (a : Word) : Byte × State := (s.peek a, s.afterRead a)

/-! ### Writing -/

/-- Store one byte in a RAM cell. -/
def State.writeRam (s : State) (a : Nat) (v : Byte) : State := { s with ram := s.ram.write a v }

/-- The address of byte `i` of `OAM` (R80). -/
def oamAddr (i : Nat) : Nat := 0xFE00 + i

/-- The address of byte `i` of source page `v` (R90). -/
def transferSource (v : Byte) (i : Nat) : Word := word v 0x00 + BitVec.ofNat 16 i

/-- One byte of the OAM bulk transfer: `OAM[i] <- ReadByte(((v << 8) + i) mod 2^16)` (R90). -/
def State.transferByte (v : Byte) (s : State) (i : Nat) : State :=
  let r := s.readByte (transferSource v i)
  r.2.writeRam (oamAddr i) r.1

/-- The OAM bulk transfer: bytes 0 to 159 in order (R90). -/
def State.bulkTransfer (s : State) (v : Byte) : State := (List.range 160).foldl (State.transferByte v) s

/-- The write of an I/O register (R37 to R54, R82). -/
def State.writeIo (s : State) (r : IoReg) (v : Byte) : State :=
  match r with
  | .p1 => { s with joypad := { s.joypad with psel := v.extractLsb' 4 2 } }
  | .div => { s with timer := { s.timer with div := 0x00 } }
  | .tima => { s with timer := { s.timer with tima := v } }
  | .tma => { s with timer := { s.timer with tma := v } }
  | .tac => { s with timer := { s.timer with tac := v.extractLsb' 0 3 } }
  | .iflag => s.setIf v
  | .lcdc => { s with ppu := { s.ppu with lcdc := v } }
  | .stat => { s with ppu := { s.ppu with stat := v.extractLsb' 3 4 } }
  | .scy => { s with ppu := { s.ppu with scy := v } }
  | .scx => { s with ppu := { s.ppu with scx := v } }
  | .ly => s
  | .lyc => { s with ppu := { s.ppu with lyc := v } }
  | .dma => s.bulkTransfer v
  | .bgp => { s with ppu := { s.ppu with bgp := v } }
  | .obp0 => { s with ppu := { s.ppu with obp0 := v } }
  | .obp1 => { s with ppu := { s.ppu with obp1 := v } }
  | .wy => { s with ppu := { s.ppu with wy := v } }
  | .wx => { s with ppu := { s.ppu with wx := v } }
  | .unmapped => s

/-- `WriteByte(a, v)` (R73, R75 to R84). The notification of R91 changes no state. -/
def State.writeByte (s : State) (a : Word) (v : Byte) : State :=
  match regionOf a with
  | .bootOverlay => s
  | .rom => s
  | .vram => s.writeRam a.toNat v
  | .eram => s.writeRam a.toNat v
  | .wram => s.writeRam a.toNat v
  | .echo => if Config.echoMirrorsWram then s.writeRam (echoTarget a) v else s
  | .oam => s.writeRam a.toNat v
  | .gap => s
  | .io => s.writeIo (ioRegAt a) v
  | .hram => s.writeRam a.toNat v
  | .interruptEnable => { s with ie := v }

/-! ### Words (R85) -/

/-- `ReadWord(a)`: the byte at `a` first, then the byte at `a + 1` modulo 2^16; the first is the low byte (R85, R87). -/
def State.readWord (s : State) (a : Word) : Word × State :=
  let l := s.readByte a
  let h := l.2.readByte (a + 1)
  (word h.1 l.1, h.2)

/-- `WriteWord(a, w)`: the low byte to `a` first, then the high byte to `a + 1` modulo 2^16 (R85, R87). -/
def State.writeWord (s : State) (a : Word) (w : Word) : State := (s.writeByte a (lo w)).writeByte (a + 1) (hi w)

end Sys2Proof.Machine
end

