-- ==== Sys2Proof/Machine/Ops.lean ====
section
/-! DEFINITION. The named operations the meanings are written with: fetching, the stack, ending an instruction with its cost,
the diagnostic stream, the interrupt controller with interrupt entry and return, the halted step, and placing bytes where the
fetch reads them. -/

namespace Sys2Proof.Machine

/-- What a step or an instruction answers. -/
abbrev Result := Host.Outcome State Fault Refusal

/-- End an instruction: `cost <- n` (R11, R122). -/
def done (n : Nat) (s : State) : Result := .next (s.setCost n)

/-! ### Fetching (R11, R25, R26, R109, R110, R118) -/

/-- `fetch8()`: read the byte at `PC` and advance `PC` by one modulo 2^16 (R11, R26). -/
def State.fetch8 (s : State) : Byte × State :=
  let r := s.readByte s.regs.pc
  (r.1, r.2.setPc (s.regs.pc + 1))

/-- Fetch the bytes of one instruction, no more than its opcode byte announces and in ascending address order, and decode them
(R101, R118). `PC` ends past the last byte. Every instruction rule fetches its operand bytes before anything else (R94, log
entry 11). -/
def State.fetchInstr (s : State) : Instr × State :=
  let o := s.fetch8
  match opLength o.1 with
  | 1 => (decodeOp o.1 0 0, o.2)
  | 2 =>
    let n := o.2.fetch8
    (decodeOp o.1 n.1 0, n.2)
  | _ =>
    let n := o.2.fetch8
    let h := n.2.fetch8
    (decodeOp o.1 n.1 h.1, h.2)

/-! ### The stack (R24, R164, R165) -/

/-- `push16(w)`: `SP <- SP - 2`, then the word at the new `SP` (R164). -/
def State.push16 (s : State) (w : Word) : State := (s.setSp (s.regs.sp - 2)).writeWord (s.regs.sp - 2) w

/-- `pop16()`: the word at `SP`, then `SP <- SP + 2` (R165). -/
def State.pop16 (s : State) : Word × State :=
  let r := s.readWord s.regs.sp
  (r.1, r.2.setSp (s.regs.sp + 2))

/-! ### The diagnostic stream (R57, R296) -/

/-- `emit Diagnostic(unimplemented-opcode, addr, byte)` (R11, R57). -/
def State.emit (s : State) (addr : Word) (byte : Byte) : State :=
  { s with diags := s.diags ++ [{ kind := .unimplementedOpcode, addr := addr, byte := byte }] }

/-! ### The interrupt controller (R301 to R306) -/

/-- The five interrupt sources (R301). -/
inductive Interrupt where
  | vblank | lcdStatus | timer | serial | joypad
  deriving DecidableEq, Repr

/-- The bit of a source in `IF` and `IE` (R301). -/
def Interrupt.index (i : Interrupt) : Nat :=
  match i with
  | .vblank => 0
  | .lcdStatus => 1
  | .timer => 2
  | .serial => 3
  | .joypad => 4

/-- The mask `1 << i` (R301). -/
def Interrupt.mask (i : Interrupt) : Byte := (1 : Byte) <<< i.index

/-- `INT_VECTOR[i]` (R5, R301, D14). -/
def Interrupt.vector (i : Interrupt) : Word :=
  match i with
  | .vblank => 0x0040
  | .lcdStatus => 0x0048
  | .timer => 0x0050
  | .serial => 0x0058
  | .joypad => 0x0060

/-- `raise Interrupt(i)`: `IF <- IF | (1 << i)` and nothing else (R301). -/
def State.raise (s : State) (i : Interrupt) : State := s.setIf (s.iflag ||| i.mask)

/-- `raise Interrupt(i)` if a condition holds. -/
def State.raiseIf (s : State) (b : Bool) (i : Interrupt) : State := if b then s.raise i else s

/-- `pend = IF & IE & 0x1F` (R300, R303). -/
def State.pend (s : State) : Byte := s.iflag &&& s.ie &&& 0x1F

/-- The source of the lowest set bit (R304). -/
def lowestSource (pend : Byte) : Option Interrupt :=
  if bit pend 0 then some .vblank
  else if bit pend 1 then some .lcdStatus
  else if bit pend 2 then some .timer
  else if bit pend 3 then some .serial
  else if bit pend 4 then some .joypad
  else none

/-- The interrupt the check at the start of a step takes, if any: `IME = 1` and the lowest pending enabled source (R303, R304). -/
def State.accepted (s : State) : Option Interrupt := if s.ime then lowestSource s.pend else none

/-- INTERRUPT ENTRY, the machine's one exception entry, in the order of R305: clear the pending bit, clear `IME`, push `PC`, jump
to the vector, cost `INT_DISPATCH_UNITS`. -/
def State.takeInterrupt (s : State) (i : Interrupt) : State :=
  ((((s.setIf (s.iflag &&& ~~~i.mask)).setIme false).push16 s.regs.pc).setPc i.vector).setCost Config.intDispatchUnits

/-- RETURN FROM INTERRUPT: pop `PC`, then `IME <- 1`, at once (R280, R306). -/
def State.returnFromInterrupt (s : State) : State :=
  let r := s.pop16
  (r.2.setPc r.1).setIme true

/-! ### The halted machine (R320, R321) -/

/-- Part (1) of the step: a pending enabled source ends the halt, whatever `IME` is (R300, R321). -/
def State.wake (s : State) : State := if s.halted && s.pend != 0 then s.setHalted false else s

/-- Part (3) of the step: a halted step fetches nothing and costs `HALT_IDLE_UNITS` (R300, R320). -/
def State.idle (s : State) : State := s.setCost Config.haltIdleUnits

/-! ### Placing bytes where a fetch reads them (for `withFetchWord` only; no rule of the machine does this) -/

/-- The address holds stored bytes: ROM (under the overlay or not) or RAM. -/
def storable (a : Word) : Bool :=
  match regionOf a with
  | .bootOverlay | .rom | .vram | .eram | .wram | .oam | .hram => true
  | .echo | .gap | .io | .interruptEnable => false

/-- The state in which a fetch of `a` reads `v`, for a storable `a`; another address changes nothing. -/
def State.placeByte (s : State) (a : Word) (v : Byte) : State :=
  match regionOf a with
  | .bootOverlay =>
    if s.boot then { s with bootRom := s.bootRom.write a.toNat v } else { s with rom := s.rom.write a.toNat v }
  | .rom => { s with rom := s.rom.write a.toNat v }
  | .vram | .eram | .wram | .oam | .hram => s.writeRam a.toNat v
  | .echo | .gap | .io | .interruptEnable => s

/-- The state made ready to fetch three stored bytes at `PC`: not halted, no interrupt about to be taken, and `PC` moved to
0xC000 (work RAM) where one of the three addresses holds no stored byte (log entry 13). -/
def State.readyToFetch (s : State) : State :=
  let s := s.setHalted false
  let s := if s.accepted.isSome then s.setIme false else s
  if storable s.regs.pc && storable (s.regs.pc + 1) && storable (s.regs.pc + 2) then s else s.setPc 0xC000

/-- Place a list of bytes at ascending addresses from `a`. -/
def State.placeBytes (s : State) (a : Word) (bytes : List Byte) : State :=
  match bytes with
  | [] => s
  | v :: rest => (s.placeByte a v).placeBytes (a + 1) rest

end Sys2Proof.Machine
end

