-- ==== Sys2Proof/Machine/Alu16.lean ====
section
/-! DEFINITION. 16-bit arithmetic (spec 43_alu16.md R220 to R223). At entry `PC` is already past the whole instruction and its
operand bytes are in the instruction (R12, R94, log entry 11). -/

namespace Sys2Proof.Machine

/-- `ADD HL,rr` (R220). -/
def execAddHlRr (p : Pair) (s : State) : Result :=
  let o := addHl16 s.hl (s.pair p) s.flags
  done 2 ((s.setPair .hl o.res).setFlags o.flags)

/-- `INC rr` (R221). -/
def execIncRr (p : Pair) (s : State) : Result := done 2 (s.setPair p (s.pair p + 1))

/-- `DEC rr` (R222). -/
def execDecRr (p : Pair) (s : State) : Result := done 2 (s.setPair p (s.pair p - 1))

/-- `ADD SP,e` (R223). -/
def execAddSpE (e : Byte) (s : State) : Result :=
  let o := addSp16 s.regs.sp e
  done 4 ((s.setSp o.res).setFlags o.flags)

end Sys2Proof.Machine
end

