-- ==== Sys2Proof/Machine/Alu8.lean ====
section
/-! DEFINITION. 8-bit arithmetic and logic (spec 42_alu8.md R173 to R204) over the functions of Flags.lean. At entry `PC` is
already past the whole instruction and its operand bytes are in the instruction (R12, R94, log entry 11). -/

namespace Sys2Proof.Machine

/-- `ADD A,r` (R173). -/
def execAddAR (r : Reg8) (s : State) : Result := done 1 (s.accumulate (add8 (s.reg .a) (s.reg r) false))

/-- `ADD A,(HL)` (R174). -/
def execAddAHl (s : State) : Result :=
  let m := s.readByte s.hl
  done 2 (m.2.accumulate (add8 (s.reg .a) m.1 false))

/-- `ADD A,n` (R175). -/
def execAddAN (n : Byte) (s : State) : Result := done 2 (s.accumulate (add8 (s.reg .a) n false))

/-- `ADC A,r` (R176). -/
def execAdcAR (r : Reg8) (s : State) : Result := done 1 (s.accumulate (add8 (s.reg .a) (s.reg r) s.flags.c))

/-- `ADC A,(HL)` (R177). -/
def execAdcAHl (s : State) : Result :=
  let m := s.readByte s.hl
  done 2 (m.2.accumulate (add8 (s.reg .a) m.1 s.flags.c))

/-- `ADC A,n` (R178). -/
def execAdcAN (n : Byte) (s : State) : Result := done 2 (s.accumulate (add8 (s.reg .a) n s.flags.c))

/-- `SUB r` (R179). -/
def execSubR (r : Reg8) (s : State) : Result := done 1 (s.accumulate (sub8 (s.reg .a) (s.reg r) false))

/-- `SUB (HL)` (R180). -/
def execSubHl (s : State) : Result :=
  let m := s.readByte s.hl
  done 2 (m.2.accumulate (sub8 (s.reg .a) m.1 false))

/-- `SUB n` (R181). -/
def execSubN (n : Byte) (s : State) : Result := done 2 (s.accumulate (sub8 (s.reg .a) n false))

/-- `SBC A,r` (R182). -/
def execSbcAR (r : Reg8) (s : State) : Result := done 1 (s.accumulate (sub8 (s.reg .a) (s.reg r) s.flags.c))

/-- `SBC A,(HL)` (R183). -/
def execSbcAHl (s : State) : Result :=
  let m := s.readByte s.hl
  done 2 (m.2.accumulate (sub8 (s.reg .a) m.1 s.flags.c))

/-- `SBC A,n` (R184). -/
def execSbcAN (n : Byte) (s : State) : Result := done 2 (s.accumulate (sub8 (s.reg .a) n s.flags.c))

/-- `AND r` (R185). -/
def execAndR (r : Reg8) (s : State) : Result := done 1 (s.accumulate (and8 (s.reg .a) (s.reg r)))

/-- `AND (HL)` (R186). -/
def execAndHl (s : State) : Result :=
  let m := s.readByte s.hl
  done 2 (m.2.accumulate (and8 (s.reg .a) m.1))

/-- `AND n` (R187). -/
def execAndN (n : Byte) (s : State) : Result := done 2 (s.accumulate (and8 (s.reg .a) n))

/-- `XOR r` (R188). -/
def execXorR (r : Reg8) (s : State) : Result := done 1 (s.accumulate (xor8 (s.reg .a) (s.reg r)))

/-- `XOR (HL)` (R189). -/
def execXorHl (s : State) : Result :=
  let m := s.readByte s.hl
  done 2 (m.2.accumulate (xor8 (s.reg .a) m.1))

/-- `XOR n` (R190). -/
def execXorN (n : Byte) (s : State) : Result := done 2 (s.accumulate (xor8 (s.reg .a) n))

/-- `OR r` (R191). -/
def execOrR (r : Reg8) (s : State) : Result := done 1 (s.accumulate (or8 (s.reg .a) (s.reg r)))

/-- `OR (HL)` (R192). -/
def execOrHl (s : State) : Result :=
  let m := s.readByte s.hl
  done 2 (m.2.accumulate (or8 (s.reg .a) m.1))

/-- `OR n` (R193). -/
def execOrN (n : Byte) (s : State) : Result := done 2 (s.accumulate (or8 (s.reg .a) n))

/-- `CP r` (R194). -/
def execCpR (r : Reg8) (s : State) : Result := done 1 (s.setFlags (sub8 (s.reg .a) (s.reg r) false).flags)

/-- `CP (HL)` (R195). -/
def execCpHl (s : State) : Result :=
  let m := s.readByte s.hl
  done 2 (m.2.setFlags (sub8 (s.reg .a) m.1 false).flags)

/-- `CP n` (R196). -/
def execCpN (n : Byte) (s : State) : Result := done 2 (s.setFlags (sub8 (s.reg .a) n false).flags)

/-- `INC r` (R197). -/
def execIncR (r : Reg8) (s : State) : Result :=
  let o := inc8 (s.reg r) s.flags
  done 1 ((s.setReg r o.res).setFlags o.flags)

/-- `INC (HL)` (R198). -/
def execIncHl (s : State) : Result :=
  let m := s.readByte s.hl
  let o := inc8 m.1 s.flags
  done 3 ((m.2.writeByte s.hl o.res).setFlags o.flags)

/-- `DEC r` (R199). -/
def execDecR (r : Reg8) (s : State) : Result :=
  let o := dec8 (s.reg r) s.flags
  done 1 ((s.setReg r o.res).setFlags o.flags)

/-- `DEC (HL)` (R200). -/
def execDecHl (s : State) : Result :=
  let m := s.readByte s.hl
  let o := dec8 m.1 s.flags
  done 3 ((m.2.writeByte s.hl o.res).setFlags o.flags)

/-- `DAA` (R201). -/
def execDaa (s : State) : Result := done 1 (s.accumulate (daa8 (s.reg .a) s.flags))

/-- `CPL` (R202). -/
def execCpl (s : State) : Result := done 1 ((s.setReg .a (~~~(s.reg .a))).setFlags { s.flags with n := true, h := true })

/-- `SCF` (R203). -/
def execScf (s : State) : Result := done 1 (s.setFlags { s.flags with n := false, h := false, c := true })

/-- `CCF` (R204). -/
def execCcf (s : State) : Result := done 1 (s.setFlags { s.flags with n := false, h := false, c := !s.flags.c })

end Sys2Proof.Machine
end

