-- ==== Sys2Proof/Machine/Control.lean ====
section
/-! DEFINITION. Jumps, calls and returns (spec 45_control.md R270 to R281). At entry `PC` is already past the whole
instruction and its operand bytes are in the instruction (R12, R94, log entry 11). So the pushed `PC` is the address of the
next instruction and a displacement is added to it. -/

namespace Sys2Proof.Machine

/-- The address `8 * t` (R112, R281). -/
def restartVector (t : Fin 8) : Word := BitVec.ofNat 16 (8 * t.val)

/-- `JP nn` (R271). -/
def execJpNn (nn : Word) (s : State) : Result := done 4 (s.setPc nn)

/-- `JP cc,nn` (R272). -/
def execJpCcNn (cc : Cond) (nn : Word) (s : State) : Result := if s.flags.cond cc then done 4 (s.setPc nn) else done 3 s

/-- `JP HL` (R273). -/
def execJpHl (s : State) : Result := done 1 (s.setPc s.hl)

/-- `JR e` (R274). -/
def execJrE (e : Byte) (s : State) : Result := done 3 (s.setPc (s.regs.pc + sext16 e))

/-- `JR cc,e` (R275). -/
def execJrCcE (cc : Cond) (e : Byte) (s : State) : Result :=
  if s.flags.cond cc then done 3 (s.setPc (s.regs.pc + sext16 e)) else done 2 s

/-- `CALL nn` (R276). -/
def execCallNn (nn : Word) (s : State) : Result := done 6 ((s.push16 s.regs.pc).setPc nn)

/-- `CALL cc,nn` (R277). -/
def execCallCcNn (cc : Cond) (nn : Word) (s : State) : Result :=
  if s.flags.cond cc then done 6 ((s.push16 s.regs.pc).setPc nn) else done 3 s

/-- `RET` (R278). -/
def execRet (s : State) : Result :=
  let w := s.pop16
  done 4 (w.2.setPc w.1)

/-- `RET cc` (R279). -/
def execRetCc (cc : Cond) (s : State) : Result :=
  if s.flags.cond cc then
    let w := s.pop16
    done 5 (w.2.setPc w.1)
  else done 2 s

/-- `RETI` (R280). -/
def execReti (s : State) : Result := done 4 s.returnFromInterrupt

/-- `RST t` (R281). -/
def execRst (t : Fin 8) (s : State) : Result := done 4 ((s.push16 s.regs.pc).setPc (restartVector t))

end Sys2Proof.Machine
end

