-- ==== Sys2Proof/Machine/Load16.lean ====
section
/-! DEFINITION. 16-bit loads and the stack (spec 41_load16.md R160 to R165). At entry `PC` is already past the whole
instruction and its operand bytes are in the instruction (R12, R94, log entry 11). -/

namespace Sys2Proof.Machine

/-- `LD rr,nn` (R160). -/
def execLdRrNn (p : Pair) (nn : Word) (s : State) : Result := done 3 (s.setPair p nn)

/-- `LD (nn),SP` (R161). -/
def execLdNnSp (nn : Word) (s : State) : Result := done 5 (s.writeWord nn s.regs.sp)

/-- `LD SP,HL` (R162). -/
def execLdSpHl (s : State) : Result := done 2 (s.setSp s.hl)

/-- `LD HL,SP+e` (R163). -/
def execLdHlSpE (e : Byte) (s : State) : Result :=
  let o := addSp16 s.regs.sp e
  done 3 ((s.setPair .hl o.res).setFlags o.flags)

/-- `PUSH qq` (R164). -/
def execPush (q : PairQ) (s : State) : Result := done 4 (s.push16 (s.pairQ q))

/-- `POP qq` (R165). -/
def execPop (q : PairQ) (s : State) : Result :=
  let w := s.pop16
  done 3 (w.2.setPairQ q w.1)

end Sys2Proof.Machine
end

