-- ==== Sys2Proof/Machine/Load8.lean ====
section
/-! DEFINITION. 8-bit loads and stores (spec 40_load8.md R131 to R149). No flag is written. At entry `PC` is already past the
whole instruction and its operand bytes are in the instruction (R12, R94, log entry 11). -/

namespace Sys2Proof.Machine

/-- `LD r,r'` (R131). -/
def execLdRR (dst : Reg8) (r : Reg8) (s : State) : Result := done 1 (s.setReg dst (s.reg r))

/-- `LD r,n` (R132). -/
def execLdRN (r : Reg8) (n : Byte) (s : State) : Result := done 2 (s.setReg r n)

/-- `LD r,(HL)` (R133). -/
def execLdRHl (dst : Reg8) (s : State) : Result :=
  let m := s.readByte s.hl
  done 2 (m.2.setReg dst m.1)

/-- `LD (HL),r` (R134). -/
def execLdHlR (r : Reg8) (s : State) : Result := done 2 (s.writeByte s.hl (s.reg r))

/-- `LD (HL),n` (R135). -/
def execLdHlN (n : Byte) (s : State) : Result := done 3 (s.writeByte s.hl n)

/-- `LD A,(BC)` (R136). -/
def execLdABc (s : State) : Result :=
  let m := s.readByte (s.pair .bc)
  done 2 (m.2.setReg .a m.1)

/-- `LD A,(DE)` (R137). -/
def execLdADe (s : State) : Result :=
  let m := s.readByte (s.pair .de)
  done 2 (m.2.setReg .a m.1)

/-- `LD (BC),A` (R138). -/
def execLdBcA (s : State) : Result := done 2 (s.writeByte (s.pair .bc) (s.reg .a))

/-- `LD (DE),A` (R139). -/
def execLdDeA (s : State) : Result := done 2 (s.writeByte (s.pair .de) (s.reg .a))

/-- `LD A,(nn)` (R140). -/
def execLdANn (nn : Word) (s : State) : Result :=
  let m := s.readByte nn
  done 4 (m.2.setReg .a m.1)

/-- `LD (nn),A` (R141). -/
def execLdNnA (nn : Word) (s : State) : Result := done 4 (s.writeByte nn (s.reg .a))

/-- `LDH A,(C)` (R142). -/
def execLdhAC (s : State) : Result :=
  let m := s.readByte (highPage (s.reg .c))
  done 2 (m.2.setReg .a m.1)

/-- `LDH (C),A` (R143). -/
def execLdhCA (s : State) : Result := done 2 (s.writeByte (highPage (s.reg .c)) (s.reg .a))

/-- `LDH A,(n)` (R144). -/
def execLdhAN (n : Byte) (s : State) : Result :=
  let m := s.readByte (highPage n)
  done 3 (m.2.setReg .a m.1)

/-- `LDH (n),A` (R145). -/
def execLdhNA (n : Byte) (s : State) : Result := done 3 (s.writeByte (highPage n) (s.reg .a))

/-- `LD A,(HL-)` (R146). -/
def execLdAHlDec (s : State) : Result :=
  let m := s.readByte s.hl
  done 2 ((m.2.setReg .a m.1).setPair .hl (s.hl - 1))

/-- `LD (HL-),A` (R147). -/
def execLdHlDecA (s : State) : Result := done 2 ((s.writeByte s.hl (s.reg .a)).setPair .hl (s.hl - 1))

/-- `LD A,(HL+)` (R148). -/
def execLdAHlInc (s : State) : Result :=
  let m := s.readByte s.hl
  done 2 ((m.2.setReg .a m.1).setPair .hl (s.hl + 1))

/-- `LD (HL+),A` (R149). -/
def execLdHlIncA (s : State) : Result := done 2 ((s.writeByte s.hl (s.reg .a)).setPair .hl (s.hl + 1))

end Sys2Proof.Machine
end

