-- ==== Sys2Proof/Machine/Rotate.lean ====
section
/-! DEFINITION. Rotates, shifts, `SWAP` and the bit instructions (spec 44_rotate_shift_bit.md R230 to R256) over the functions
of Flags.lean. At entry `PC` is already past the whole instruction and its operand bytes are in the instruction (R12, R94, log
entry 11). -/

namespace Sys2Proof.Machine

/-- `RLCA` (R230). -/
def execRlca (s : State) : Result :=
  let o := rlc (s.reg .a)
  done 1 ((s.setReg .a o.res).setFlags o.flagsNoZero)

/-- `RLA` (R231). -/
def execRla (s : State) : Result :=
  let o := rl (s.reg .a) s.flags.c
  done 1 ((s.setReg .a o.res).setFlags o.flagsNoZero)

/-- `RRCA` (R232). -/
def execRrca (s : State) : Result :=
  let o := rrc (s.reg .a)
  done 1 ((s.setReg .a o.res).setFlags o.flagsNoZero)

/-- `RRA` (R233). -/
def execRra (s : State) : Result :=
  let o := rr (s.reg .a) s.flags.c
  done 1 ((s.setReg .a o.res).setFlags o.flagsNoZero)

/-- `RLC r` (R235). -/
def execRlcR (r : Reg8) (s : State) : Result :=
  let o := rlc (s.reg r)
  done 2 ((s.setReg r o.res).setFlags o.flags)

/-- `RLC (HL)` (R236). -/
def execRlcHl (s : State) : Result :=
  let m := s.readByte s.hl
  let o := rlc m.1
  done 4 ((m.2.writeByte s.hl o.res).setFlags o.flags)

/-- `RRC r` (R237). -/
def execRrcR (r : Reg8) (s : State) : Result :=
  let o := rrc (s.reg r)
  done 2 ((s.setReg r o.res).setFlags o.flags)

/-- `RRC (HL)` (R238). -/
def execRrcHl (s : State) : Result :=
  let m := s.readByte s.hl
  let o := rrc m.1
  done 4 ((m.2.writeByte s.hl o.res).setFlags o.flags)

/-- `RL r` (R239). -/
def execRlR (r : Reg8) (s : State) : Result :=
  let o := rl (s.reg r) s.flags.c
  done 2 ((s.setReg r o.res).setFlags o.flags)

/-- `RL (HL)` (R240). -/
def execRlHl (s : State) : Result :=
  let m := s.readByte s.hl
  let o := rl m.1 s.flags.c
  done 4 ((m.2.writeByte s.hl o.res).setFlags o.flags)

/-- `RR r` (R241). -/
def execRrR (r : Reg8) (s : State) : Result :=
  let o := rr (s.reg r) s.flags.c
  done 2 ((s.setReg r o.res).setFlags o.flags)

/-- `RR (HL)` (R242). -/
def execRrHl (s : State) : Result :=
  let m := s.readByte s.hl
  let o := rr m.1 s.flags.c
  done 4 ((m.2.writeByte s.hl o.res).setFlags o.flags)

/-- `SLA r` (R243). -/
def execSlaR (r : Reg8) (s : State) : Result :=
  let o := sla (s.reg r)
  done 2 ((s.setReg r o.res).setFlags o.flags)

/-- `SLA (HL)` (R244). -/
def execSlaHl (s : State) : Result :=
  let m := s.readByte s.hl
  let o := sla m.1
  done 4 ((m.2.writeByte s.hl o.res).setFlags o.flags)

/-- `SRA r` (R245). -/
def execSraR (r : Reg8) (s : State) : Result :=
  let o := sra (s.reg r)
  done 2 ((s.setReg r o.res).setFlags o.flags)

/-- `SRA (HL)` (R246). -/
def execSraHl (s : State) : Result :=
  let m := s.readByte s.hl
  let o := sra m.1
  done 4 ((m.2.writeByte s.hl o.res).setFlags o.flags)

/-- `SWAP r` (R247). -/
def execSwapR (r : Reg8) (s : State) : Result :=
  let o := swap (s.reg r)
  done 2 ((s.setReg r o.res).setFlags o.flags)

/-- `SWAP (HL)` (R248). -/
def execSwapHl (s : State) : Result :=
  let m := s.readByte s.hl
  let o := swap m.1
  done 4 ((m.2.writeByte s.hl o.res).setFlags o.flags)

/-- `SRL r` (R249). -/
def execSrlR (r : Reg8) (s : State) : Result :=
  let o := srl (s.reg r)
  done 2 ((s.setReg r o.res).setFlags o.flags)

/-- `SRL (HL)` (R250). -/
def execSrlHl (s : State) : Result :=
  let m := s.readByte s.hl
  let o := srl m.1
  done 4 ((m.2.writeByte s.hl o.res).setFlags o.flags)

/-- `BIT b,r` (R251). -/
def execBitBR (b : Fin 8) (r : Reg8) (s : State) : Result := done 2 (s.setFlags (bitFlags (s.reg r) b s.flags))

/-- `BIT b,(HL)` (R252). -/
def execBitBHl (b : Fin 8) (s : State) : Result :=
  let m := s.readByte s.hl
  done 3 (m.2.setFlags (bitFlags m.1 b s.flags))

/-- `RES b,r` (R253). -/
def execResBR (b : Fin 8) (r : Reg8) (s : State) : Result := done 2 (s.setReg r (resBit (s.reg r) b))

/-- `RES b,(HL)` (R254). -/
def execResBHl (b : Fin 8) (s : State) : Result :=
  let m := s.readByte s.hl
  done 4 (m.2.writeByte s.hl (resBit m.1 b))

/-- `SET b,r` (R255). -/
def execSetBR (b : Fin 8) (r : Reg8) (s : State) : Result := done 2 (s.setReg r (setBit (s.reg r) b))

/-- `SET b,(HL)` (R256). -/
def execSetBHl (b : Fin 8) (s : State) : Result :=
  let m := s.readByte s.hl
  done 4 (m.2.writeByte s.hl (setBit m.1 b))

end Sys2Proof.Machine
end

