-- ==== Sys2Proof/Machine/System.lean ====
section
/-! DEFINITION. System instructions, the prefix byte and the undefined opcodes (spec 46_system.md R290 to R296). No flag is
written. At entry `PC` is already past the whole instruction and its operand bytes are in the instruction (R12, R94, log entry
11). For an undefined opcode, one byte long, the address it was fetched from is therefore `PC - 1` (R296). -/

namespace Sys2Proof.Machine

/-- The extended-page rule of the byte after the prefix (R108, R115, R295): `x` selects the group, `y` the operation or the bit
index, `z` the operand. -/
def execExtended (o2 : Byte) (s : State) : Result :=
  match fieldX o2, selReg (fieldZ o2) with
  | 0, some r =>
    match fieldY o2 with
    | 0 => execRlcR r s
    | 1 => execRrcR r s
    | 2 => execRlR r s
    | 3 => execRrR r s
    | 4 => execSlaR r s
    | 5 => execSraR r s
    | 6 => execSwapR r s
    | _ => execSrlR r s
  | 0, none =>
    match fieldY o2 with
    | 0 => execRlcHl s
    | 1 => execRrcHl s
    | 2 => execRlHl s
    | 3 => execRrHl s
    | 4 => execSlaHl s
    | 5 => execSraHl s
    | 6 => execSwapHl s
    | _ => execSrlHl s
  | 1, some r => execBitBR (selIdx o2) r s
  | 1, none => execBitBHl (selIdx o2) s
  | 2, some r => execResBR (selIdx o2) r s
  | 2, none => execResBHl (selIdx o2) s
  | _, some r => execSetBR (selIdx o2) r s
  | _, none => execSetBHl (selIdx o2) s

/-- `NOP` (R290). -/
def execNop (s : State) : Result := done 1 s

/-- `HALT` (R291). -/
def execHalt (s : State) : Result := done 1 (s.setHalted true)

/-- `STOP` (R292). -/
def execStop (s : State) : Result := done 1 s

/-- `DI` (R293). -/
def execDi (s : State) : Result := done 1 (s.setIme false)

/-- `EI` (R294). -/
def execEi (s : State) : Result := done 1 (s.setIme true)

/-- The prefix byte 0xCB and the extended opcode after it (R295): the extended-page instruction of `o2`, whose cost is the whole
cost. -/
def execPrefixCb (o2 : Byte) (s : State) : Result := execExtended o2 s

/-- Undefined opcode 0xD3 (R296): a diagnostic, no cost. -/
def execUndefD3 (s : State) : Result := done 0 (s.emit (s.regs.pc - 1) 0xD3)

/-- Undefined opcode 0xDB (R296): a diagnostic, no cost. -/
def execUndefDB (s : State) : Result := done 0 (s.emit (s.regs.pc - 1) 0xDB)

/-- Undefined opcode 0xDD (R296): a diagnostic, no cost. -/
def execUndefDD (s : State) : Result := done 0 (s.emit (s.regs.pc - 1) 0xDD)

/-- Undefined opcode 0xE3 (R296): a diagnostic, no cost. -/
def execUndefE3 (s : State) : Result := done 0 (s.emit (s.regs.pc - 1) 0xE3)

/-- Undefined opcode 0xE4 (R296): a diagnostic, no cost. -/
def execUndefE4 (s : State) : Result := done 0 (s.emit (s.regs.pc - 1) 0xE4)

/-- Undefined opcode 0xEB (R296): a diagnostic, no cost. -/
def execUndefEB (s : State) : Result := done 0 (s.emit (s.regs.pc - 1) 0xEB)

/-- Undefined opcode 0xEC (R296): a diagnostic, no cost. -/
def execUndefEC (s : State) : Result := done 0 (s.emit (s.regs.pc - 1) 0xEC)

/-- Undefined opcode 0xED (R296): a diagnostic, no cost. -/
def execUndefED (s : State) : Result := done 0 (s.emit (s.regs.pc - 1) 0xED)

/-- Undefined opcode 0xF4 (R296): a diagnostic, no cost. -/
def execUndefF4 (s : State) : Result := done 0 (s.emit (s.regs.pc - 1) 0xF4)

/-- Undefined opcode 0xFC (R296): a diagnostic, no cost. -/
def execUndefFC (s : State) : Result := done 0 (s.emit (s.regs.pc - 1) 0xFC)

/-- Undefined opcode 0xFD (R296): a diagnostic, no cost. -/
def execUndefFD (s : State) : Result := done 0 (s.emit (s.regs.pc - 1) 0xFD)

end Sys2Proof.Machine
end

