-- ==== Sys2Proof/Machine/Render.lean ====
section
/-! DEFINITION. The scanline render (spec 60_exceptions.md R356 to R362). The spec makes it optional for a model (00_scope.md R4);
it is modelled whole: its one output is the row of the pixel buffer (10_state.md R58). It reads `VRAM` and `OAM` directly, not
through the decoder (20_memory.md R98). -/

namespace Sys2Proof.Machine

/-- Palette lookup `shade(P, i) = P[2i+1 : 2i]` (R359). -/
def shade (palette : Byte) (i : BitVec 2) : Shade := palette.extractLsb' (2 * i.toNat) 2

/-- `TilePixel(ta, cx, cy)` (R358). -/
def State.tilePixel (s : State) (ta cx cy : Nat) : BitVec 2 :=
  let low := s.ram.read (ta + 2 * cy)
  let high := s.ram.read (ta + 2 * cy + 1)
  (if bit high (7 - cx) then 2 else 0) ||| (if bit low (7 - cx) then 1 else 0)

/-- `BgTileAddr(t)`: unsigned from 0x8000 if `LCDC[4] = 1`, else signed from 0x9000 (R358). -/
def bgTileAddr (lcdc t : Byte) : Nat :=
  if bit lcdc 4 then 0x8000 + 16 * t.toNat else (0x9000 + 16 * signed t).toNat

/-- The base address of a tile map, from its select bit (R357). -/
def mapBase (select : Bool) : Nat := if select then 0x9C00 else 0x9800

/-- `bgi[x]` of line `y`: the background or window colour index (R357). -/
def State.bgIndex (s : State) (y x : Nat) : BitVec 2 :=
  let p := s.ppu
  let window := bit p.lcdc 5 && decide (y ≥ p.wy.toNat) && decide (x + 7 ≥ p.wx.toNat)
  let map := if window then mapBase (bit p.lcdc 6) else mapBase (bit p.lcdc 3)
  let px := if window then x + 7 - p.wx.toNat else (x + p.scx.toNat) % 256
  let py := if window then y - p.wy.toNat else (y + p.scy.toNat) % 256
  if bit p.lcdc 0 then
    let t := s.ram.read (map + 32 * (py / 8) + px / 8)
    s.tilePixel (bgTileAddr p.lcdc t) (px % 8) (py % 8)
  else 0

/-- One object attribute entry (R360): screen coordinates, tile index, attribute byte. -/
structure Sprite where
  /-- The position index `k`, 0..39. -/
  slot : Nat
  y : Int
  x : Int
  tile : Byte
  attr : Byte
  deriving DecidableEq, Repr

/-- Entry `k` of `OAM` (R360). -/
def State.sprite (s : State) (k : Nat) : Sprite :=
  { slot := k
    y := (s.ram.read (oamAddr (4 * k))).toNat - 16
    x := (s.ram.read (oamAddr (4 * k + 1))).toNat - 8
    tile := s.ram.read (oamAddr (4 * k + 2))
    attr := s.ram.read (oamAddr (4 * k + 3)) }

/-- Sprite height: 8, or 16 if `LCDC[2] = 1` (R361). -/
def spriteHeight (lcdc : Byte) : Nat := if bit lcdc 2 then 16 else 8

/-- Entry covers line `y`: `Y <= y < Y + h` (R361). -/
def Sprite.covers (o : Sprite) (h y : Nat) : Bool := decide (o.y ≤ y) && decide ((y : Int) < o.y + h)

/-- `o` is drawn before `o'`: larger `X` first, among equal `X` the larger slot first (R361). -/
def Sprite.before (o o' : Sprite) : Bool := decide (o.x > o'.x) || (decide (o.x = o'.x) && decide (o.slot > o'.slot))

/-- Insert a sprite into a list in drawing order. -/
def insertSprite (o : Sprite) : List Sprite → List Sprite
  | [] => [o]
  | p :: rest => if o.before p then o :: p :: rest else p :: insertSprite o rest

/-- The sprites of line `y` in drawing order: the first ten entries that cover the line, sorted (R361). -/
def State.spritesOf (s : State) (y : Nat) : List Sprite :=
  let covering := ((List.range 40).map s.sprite).filter (fun o => o.covers (spriteHeight s.ppu.lcdc) y)
  (covering.take 10).foldr insertSprite []

/-- The colour index of column `j` of a sprite on line `y`, with both flips and the tile of an 8 by 16 sprite (R362). -/
def State.spriteIndex (s : State) (o : Sprite) (y j : Nat) : BitVec 2 :=
  let h := spriteHeight s.ppu.lcdc
  let r0 := ((y : Int) - o.y).toNat
  let r := if bit o.attr 6 then h - 1 - r0 else r0
  let col := if bit o.attr 5 then 7 - j else j
  let t : Byte := if h = 16 then (if r < 8 then o.tile &&& 0xFE else o.tile ||| 1) else o.tile
  s.tilePixel (0x8000 + 16 * t.toNat) col (r % 8)

/-- Column `j` of one sprite drawn over a row (R362): off-screen columns and colour index 0 change nothing, and a sprite behind the
background shows only where the background colour index is 0. -/
def State.drawSpritePixel (s : State) (y : Nat) (o : Sprite) (row : List Shade) (j : Nat) : List Shade :=
  let sx := o.x + (j : Int)
  let ci := s.spriteIndex o y j
  if 0 ≤ sx ∧ sx < 160 ∧ ci ≠ 0 ∧ (bit o.attr 7 = false ∨ s.bgIndex y sx.toNat = 0) then
    row.set sx.toNat (shade (if bit o.attr 4 then s.ppu.obp1 else s.ppu.obp0) ci)
  else row

/-- The eight columns of one sprite drawn over a row (R362). -/
def State.drawSprite (s : State) (y : Nat) (row : List Shade) (o : Sprite) : List Shade :=
  (List.range 8).foldl (s.drawSpritePixel y o) row

/-- The background row of line `y` (R356, R359). -/
def State.backgroundRow (s : State) (y : Nat) : List Shade :=
  (List.range 160).map (fun x => shade s.ppu.bgp (s.bgIndex y x))

/-- The 160 shades that `RenderLine(y)` writes (R356): the background, then the sprites if `LCDC[1] = 1`. -/
def State.lineOf (s : State) (y : Nat) : List Shade :=
  if bit s.ppu.lcdc 1 then (s.spritesOf y).foldl (s.drawSprite y) (s.backgroundRow y) else s.backgroundRow y

/-- Row `y` of the pixel buffer. -/
def PixelBuffer.row (p : PixelBuffer) (y : Nat) : List Shade := lookup blankRow p.rows y

/-- Write row `y` of the pixel buffer. -/
def PixelBuffer.setRow (p : PixelBuffer) (y : Nat) (row : List Shade) : PixelBuffer :=
  { rows := update blankRow p.rows y row }

/-- The cell `pix[y][x]` (R356). -/
def PixelBuffer.cell (p : PixelBuffer) (y x : Nat) : Shade := (p.row y).getD x 0

/-- `RenderLine(y)`: row `y` of the pixel buffer and nothing else (R356). -/
def State.renderLine (s : State) (y : Nat) : State :=
  { s with ppu := { s.ppu with pix := s.ppu.pix.setRow y (s.lineOf y) } }

end Sys2Proof.Machine
end

