-- ==== Sys2Proof/Machine/Timer.lean ====
section
/-! DEFINITION. The timer and divider: `Timer.Tick` (spec 60_exceptions.md R330 to R335). -/

namespace Sys2Proof.Machine

/-- `tsub <- tsub + 1`, and `DIV <- DIV + 1` modulo 256 once every `TIMER_DIV_PERIOD` advances (R331). -/
def Timer.advanceDivider (t : Timer) : Timer :=
  if t.tsub + 1 = Config.timerDivPeriod then { t with tsub := 0, div := t.div + 1 } else { t with tsub := t.tsub + 1 }

/-- `TAC[2]` (R41). -/
def Timer.enabled (t : Timer) : Bool := t.tac.getLsbD 2

/-- `TIMER_THRESHOLD[TAC[1:0]]` (R331). -/
def Timer.threshold (t : Timer) : Nat := Config.timerThreshold (t.tac.extractLsb' 0 2)

/-- The part of one sub-counter advance that counts `TIMA`: the timer after it, and whether `TIMA` overflowed (R331, R333). -/
def Timer.advanceCounter (t : Timer) : Timer × Bool :=
  if t.enabled then
    if t.tacc + 1 ≥ t.threshold then
      if t.tima = 0xFF then ({ t with tacc := 0, tima := t.tma }, true)
      else ({ t with tacc := 0, tima := t.tima + 1 }, false)
    else ({ t with tacc := t.tacc + 1 }, false)
  else (t, false)

/-- One cost unit of `Tick` (R331): on every `TIMER_UNITS_PER_SUB`-th unit one advance of the sub-counter. -/
def Timer.unit (t : Timer) : Timer × Bool :=
  if t.traw + 1 = Config.timerUnitsPerSub then ({ t with traw := 0 }.advanceDivider).advanceCounter
  else ({ t with traw := t.traw + 1 }, false)

/-- One cost unit of the timer in the machine: an overflow raises the timer interrupt (R331). -/
def State.timerUnit (s : State) : State :=
  let r := s.timer.unit
  ({ s with timer := r.1 }).raiseIf r.2 .timer

/-- `Timer.Tick(c)`: `c` units in turn (R331). -/
def State.timerTick (c : Nat) (s : State) : State :=
  match c with
  | 0 => s
  | c + 1 => s.timerUnit.timerTick c

end Sys2Proof.Machine
end

