-- ==== Sys2Proof/Machine/Ppu.lean ====
section
/-! DEFINITION. The PPU mode state machine and its interrupts: `PPU.Advance` (spec 60_exceptions.md R340 to R352). -/

namespace Sys2Proof.Machine

/-- The threshold of a mode in units (R340). -/
def PpuMode.units (m : PpuMode) : Nat :=
  match m with
  | .oamScan => Config.ppuOamUnits
  | .pixelTransfer => Config.ppuXferUnits
  | .hblank => Config.ppuHblankUnits
  | .vblank => Config.ppuVblankLineUnits

/-- `pcnt <- n`. -/
def State.setPcnt (s : State) (n : Nat) : State := { s with ppu := { s.ppu with pcnt := n } }

/-- `mode <- m`. -/
def State.setMode (s : State) (m : PpuMode) : State := { s with ppu := { s.ppu with mode := m } }

/-- `LY <- v`. -/
def State.setLy (s : State) (v : Byte) : State := { s with ppu := { s.ppu with ly := v } }

/-- `STAT[k]` for a stored bit `k` of 3..6 (R44). -/
def Ppu.statBit (p : Ppu) (k : Nat) : Bool := p.stat.getLsbD (k - 3)

/-- `LycCheck()` (R350). -/
def State.lycCheck (s : State) : State :=
  s.raiseIf (s.ppu.ly == s.ppu.lyc && (!Config.lycRequiresStat6 || s.ppu.statBit 6)) .lcdStatus

/-- `OAM_SCAN` to `PIXEL_TRANSFER` (R341, R342). -/
def State.leaveOamScan (s : State) : State := ((s.setPcnt 0).setMode .pixelTransfer).lycCheck

/-- `PIXEL_TRANSFER` to `HBLANK`: the line is rendered here (R341, R343, R348). -/
def State.leavePixelTransfer (s : State) : State :=
  let s := (s.setPcnt 0).setMode .hblank
  let s := s.renderLine s.ppu.ly.toNat
  (s.raiseIf (s.ppu.statBit 3) .lcdStatus).lycCheck

/-- `HBLANK` to the next line: `VBLANK` at line 144, else `OAM_SCAN` (R341, R344, R348). -/
def State.leaveHblank (s : State) : State :=
  let s := (s.setPcnt 0).setLy (s.ppu.ly + 1)
  let s :=
    if s.ppu.ly = 144 then ((s.setMode .vblank).raise .vblank).raiseIf (s.ppu.statBit 4) .lcdStatus
    else (s.setMode .oamScan).raiseIf (s.ppu.statBit 5) .lcdStatus
  s.lycCheck

/-- The end of a line in `VBLANK`: after line 153 back to line 0 in `OAM_SCAN` (R341, R345, R348). -/
def State.leaveVblankLine (s : State) : State :=
  let s := (s.setPcnt 0).setLy (s.ppu.ly + 1)
  let s := if s.ppu.ly > 153 then ((s.setLy 0).setMode .oamScan).raiseIf (s.ppu.statBit 5) .lcdStatus else s
  s.lycCheck

/-- The transition out of the current mode's period. -/
def State.ppuTransition (s : State) : State :=
  match s.ppu.mode with
  | .oamScan => s.leaveOamScan
  | .pixelTransfer => s.leavePixelTransfer
  | .hblank => s.leaveHblank
  | .vblank => s.leaveVblankLine

/-- `PPU.Advance(c)`: at most one transition, what exceeds the threshold is dropped (R341). -/
def State.ppuAdvance (c : Nat) (s : State) : State :=
  let s := s.setPcnt (s.ppu.pcnt + c)
  if s.ppu.pcnt ≥ s.ppu.mode.units then s.ppuTransition else s

/-- Parts (5) and (6) of the step: the timer, then the PPU, advance by the step's cost (R300, D42). -/
def State.advanceDevices (s : State) : State := (s.timerTick s.cost).ppuAdvance s.cost

end Sys2Proof.Machine
end

