-- ==== Sys2Proof/Machine/Step.lean ====
section
/-! DEFINITION. The one transition of the machine, `Step()` (spec 60_exceptions.md R300), and where the next fetch reads. -/

namespace Sys2Proof.Machine

/-- `Step()` (R300): part (1) wake, then exactly one of part (2) interrupt entry, part (3) idle, part (4) one instruction; then
parts (5) and (6), the timer and the PPU by the step's cost. The cost returned is the field `cost` (log entry 3). -/
def step (s : State) : Host.Outcome State Fault Refusal :=
  let s := s.wake
  match s.accepted with
  | some i => .next (s.takeInterrupt i).advanceDevices
  | none =>
    if s.halted then .next s.idle.advanceDevices
    else
      let f := s.fetchInstr
      match exec f.1 f.2 with
      | .next t => .next t.advanceDevices
      | .fault r => .fault r
      | .refused r => .refused r

/-- The state whose next step fetches and runs the instruction of the table word `w` (log entries 12 and 13): the machine is not
halted, takes no interrupt, and the bytes stand where the fetch reads them. -/
def State.withFetchWord (s : State) (nbits w : Nat) : State :=
  s.readyToFetch.placeBytes s.readyToFetch.regs.pc (tableBytes nbits w)

end Sys2Proof.Machine
end

