-- ==== Sys2Proof/Machine/HostPort.lean ====
section
/-! DEFINITION. What the host can do to the machine between steps (spec 60_exceptions.md R366 to R373, 20_memory.md R97): load the
images, update the buttons, reset, and the pause, continue and single-step commands. Snapshot reads (R373) are reads of the
fields of State. None of this happens inside `step` (log entries 7 and 8). -/

namespace Sys2Proof.Machine

/-- The cells of an image whose first byte stands at key `a`, in canonical form. -/
def imageCells (a : Nat) (bytes : List Byte) : List Host.Cell :=
  match bytes with
  | [] => []
  | v :: rest => if v = Config.unlistedByte then imageCells (a + 1) rest else (a, v) :: imageCells (a + 1) rest

/-- An image as a memory, first byte at key 0. -/
def imageOf (bytes : List Byte) : Memory := { cells := imageCells 0 bytes }

/-- Creating a machine (R97, R380): none where the ROM image is short or the boot program is not 256 bytes long; else the reset
state on the images. ROM bytes from 0x8000 up reach no address (R75, D10) and are not held (log entry 15). -/
def State.load (rom bootRom : List Byte) : Option State :=
  if Config.romMinLength ≤ rom.length ∧ bootRom.length = Config.bootRomLength then
    some (State.resetOn (imageOf (rom.take Config.romMinLength)) (imageOf bootRom))
  else none

/-- `UpdateButtons(new)` (R366, R367): the joypad interrupt if at least one button goes from released to pressed, then the new
button state. -/
def State.updateButtons (s : State) (new : Byte) : State :=
  let s' := s.raiseIf (new &&& ~~~s.joypad.buttons != 0) .joypad
  { s' with joypad := { s'.joypad with buttons := new } }

/-- The reset command (R372, R381): the reset state on the same images. -/
def State.hostReset (s : State) : State := State.resetOn s.rom s.bootRom

/-- The machine with the host's run flag, which no rule of the machine reads (R59, R371), and the number of pause notifications
fired so far. -/
structure HostSession where
  machine : State
  running : Bool
  notifications : Nat
  deriving DecidableEq, Repr

/-- Pause: stop stepping, fire a pause notification (R371). -/
def HostSession.pause (h : HostSession) : HostSession := { h with running := false, notifications := h.notifications + 1 }

/-- Continue: resume free running (R371). -/
def HostSession.resume (h : HostSession) : HostSession := { h with running := true }

/-- Single step: exactly one `Step()`, then paused again with a notification (R371, R375). -/
def HostSession.singleStep (h : HostSession) : Host.Outcome HostSession Fault Refusal :=
  match step h.machine with
  | .next s => .next ({ h with machine := s }.pause)
  | .fault r => .fault r
  | .refused r => .refused r

/-- One turn of the host's loop: a step while running, nothing while paused (R370, R371). -/
def HostSession.turn (h : HostSession) : Host.Outcome HostSession Fault Refusal :=
  if h.running then
    match step h.machine with
    | .next s => .next { h with machine := s }
    | .fault r => .fault r
    | .refused r => .refused r
  else .next h

/-- Reset between two steps (R372). -/
def HostSession.reset (h : HostSession) : HostSession := { h with machine := h.machine.hostReset }

end Sys2Proof.Machine
end

