-- ==== Sys2Proof/Safety.lean ====
section
/-! DEFINITION. What the statements are said in: the invariant of the machine, the addresses a store can change, the instructions
that transfer control, frames, encodings as the rules print them, and the cost table of 30_encoding.md R121. -/

namespace Sys2Proof

/-- The general registers that make up a pair; `SP` is none (10_state.md R21). -/
def Pair.halves (p : Pair) : List Reg8 :=
  match p with
  | .bc => [.b, .c]
  | .de => [.d, .e]
  | .hl => [.h, .l]
  | .sp => []

/-! ### Encodings as the rules print them -/

/-- The bytes are the instruction, whatever bytes follow. -/
abbrev Encodes (bytes : List Byte) (i : Instr) : Prop := ∀ rest, decode (bytes ++ rest) = .ok (i, rest)

/-- The 3-bit code of 30_encoding.md R103. -/
def Reg8.bits (r : Reg8) : BitVec 3 :=
  match r with
  | .b => 0b000
  | .c => 0b001
  | .d => 0b010
  | .e => 0b011
  | .h => 0b100
  | .l => 0b101
  | .a => 0b111

/-- The 2-bit code of R104. -/
def Pair.bits (p : Pair) : BitVec 2 :=
  match p with
  | .bc => 0b00
  | .de => 0b01
  | .hl => 0b10
  | .sp => 0b11

/-- The 2-bit code of R105. -/
def PairQ.bits (q : PairQ) : BitVec 2 :=
  match q with
  | .bc => 0b00
  | .de => 0b01
  | .hl => 0b10
  | .af => 0b11

/-- The 2-bit code of R106. -/
def Cond.bits (cc : Cond) : BitVec 2 :=
  match cc with
  | .nz => 0b00
  | .z => 0b01
  | .nc => 0b10
  | .c => 0b11

/-- The 3-bit index of R112, R113. -/
def idxBits (k : Fin 8) : BitVec 3 := BitVec.ofNat 3 k.val

/-- A byte of fields of 2, 3 and 3 bits. -/
def byte233 (x : BitVec 2) (y z : BitVec 3) : Byte := x ++ y ++ z

/-- A byte of fields of 2, 2 and 4 bits. -/
def byte224 (x y : BitVec 2) (z : BitVec 4) : Byte := x ++ y ++ z

/-- A byte of fields of 3, 2 and 3 bits. -/
def byte323 (x : BitVec 3) (y : BitVec 2) (z : BitVec 3) : Byte := x ++ y ++ z

end Sys2Proof

namespace Sys2Proof.Machine

/-! ### The invariant -/

/-- The addresses of `VRAM`, `ERAM`, `WRAM`, `OAM` and `HRAM` (20_memory.md R71, 10_state.md R32). -/
abbrev RamAddr (k : Nat) : Prop :=
  (0x8000 ≤ k ∧ k < 0xE000) ∨ (0xFE00 ≤ k ∧ k < 0xFEA0) ∨ (0xFF80 ≤ k ∧ k < 0xFFFF)

/-- The memories are in canonical form and list no key outside their range. -/
abbrev State.MemInv (s : State) : Prop :=
  s.ram.wf ∧ (∀ c ∈ s.ram.cells, RamAddr c.1) ∧ s.rom.wf ∧ (∀ c ∈ s.rom.cells, c.1 < 0x8000) ∧
  s.bootRom.wf ∧ (∀ c ∈ s.bootRom.cells, c.1 < 0x100)

/-- The pixel buffer is in canonical form: lines below 144, each of 160 cells (10_state.md R58). -/
abbrev PixelBuffer.wf (p : PixelBuffer) : Prop :=
  Canonical blankRow p.rows ∧ ∀ r ∈ p.rows, r.1 < 144 ∧ r.2.length = 160

/-- The ranges of 10_state.md R34: the mode is `VBLANK` exactly on lines 144 to 153, no line is above 153, and `pcnt` is below the
threshold of the mode. -/
abbrev State.PpuInv (s : State) : Prop :=
  (s.ppu.mode = .vblank ↔ 144 ≤ s.ppu.ly.toNat) ∧ s.ppu.ly.toNat ≤ 153 ∧ s.ppu.pcnt < s.ppu.mode.units ∧ s.ppu.pix.wf

/-- The ranges of 10_state.md R33. -/
abbrev State.TimerInv (s : State) : Prop :=
  s.timer.tsub < Config.timerDivPeriod ∧ s.timer.tacc < 64 ∧ s.timer.traw < Config.timerUnitsPerSub

/-- What holds between steps: the memories and the pixel buffer are canonical, the timer's and the PPU's ranges hold, and the last
step cost at most 6 units (70_reset_and_hazards.md R401). -/
abbrev State.Inv (s : State) : Prop := s.MemInv ∧ s.PpuInv ∧ s.TimerInv ∧ s.cost ≤ 6

/-! ### Stores -/

/-- The address is plain storage: what is written there is what is read there (20_memory.md R76 to R78, R80, R83). -/
abbrev PlainStorage (a : Word) : Prop := RamAddr a.toNat

/-- The addresses of the object attribute memory (20_memory.md R80). -/
abbrev OamAddr (a : Word) : Prop := 0xFE00 ≤ a.toNat ∧ a.toNat < 0xFEA0

/-- The addresses whose reading a store of `v` to `a` can change: `a` itself; with the bulk transfer (`a` = 0xFF46) the object
attribute memory, and, where its source page 0x01 is read under the overlay, the addresses the overlay covered (R74, R90); with a
new `LYC` (`a` = 0xFF45) the coincidence bit of `STAT` at 0xFF41 (10_state.md R44). -/
abbrev storeTouches (boot : Bool) (a : Word) (v : Byte) (b : Word) : Prop :=
  b = a ∨ (a = 0xFF46 ∧ OamAddr b) ∨ (a = 0xFF46 ∧ v = 0x01 ∧ boot = true ∧ b.toNat < 0x100) ∨
  (a = 0xFF45 ∧ b = 0xFF41)

/-- One byte `v` is stored at `a`, as `WriteByte(a, v)`: every reading of `t` is the one after `WriteByte(a, v)`, plain storage reads
back `v`, every address that the store does not touch reads as before, and `boot` is cleared only by a bulk transfer from page
0x01. -/
abbrev State.Stores (s : State) (a : Word) (v : Byte) (t : State) : Prop :=
  (∀ b, t.peek b = (s.writeByte a v).peek b) ∧ (s.ram.wf → PlainStorage a → t.peek a = v) ∧
  (∀ b, ¬storeTouches s.boot a v b → t.peek b = s.peek b) ∧ t.boot = (s.boot && !decide (a = 0xFF46 ∧ v = 0x01))

/-- Nothing is read or stored: every address reads as before. -/
abbrev State.KeepsMemory (s t : State) : Prop := t.boot = s.boot ∧ ∀ b, t.peek b = s.peek b

/-- One byte is read at `a` and nothing is stored: every address reads as before, but that the first read of 0x0100 drops the boot
overlay (20_memory.md R72, R74). -/
abbrev State.KeepsMemoryReading (s : State) (a : Word) (t : State) : Prop :=
  t.boot = (s.boot && decide (a ≠ 0x0100)) ∧
  ∀ b, ¬(a = 0x0100 ∧ s.boot = true ∧ b.toNat < 0x100) → t.peek b = s.peek b

/-! ### Sprites of a line -/

/-- Entry `k` of the object attribute memory covers line `y` (60_exceptions.md R361). -/
abbrev State.Covers (s : State) (y k : Nat) : Prop :=
  (s.sprite k).y ≤ y ∧ (y : Int) < (s.sprite k).y + (if s.ppu.lcdc.getLsbD 2 then 16 else 8)

/-- Entry `k` is drawn on line `y`: it is one of the first ten of the forty, in ascending `k`, that cover the line (R361). -/
abbrev State.Selected (s : State) (y k : Nat) : Prop :=
  k < 40 ∧ s.Covers y k ∧ ((List.range k).filter fun j => decide (s.Covers y j)).length < 10

/-! ### Frames -/

/-- The latches `IME` and `halted` and the diagnostic stream are as before. -/
abbrev State.KeepsControl (s t : State) : Prop := t.ime = s.ime ∧ t.halted = s.halted ∧ t.diags = s.diags

/-- What no instruction reaches: the images, the hidden counters of the timer and the PPU, the mode, the line, the pixel buffer
and the buttons (10_state.md R56, R58; 20_memory.md R92 (4), (5)). -/
abbrev State.KeepsHidden (s t : State) : Prop :=
  t.rom = s.rom ∧ t.bootRom = s.bootRom ∧ t.timer.tsub = s.timer.tsub ∧ t.timer.tacc = s.timer.tacc ∧
  t.timer.traw = s.timer.traw ∧ t.ppu.mode = s.ppu.mode ∧ t.ppu.ly = s.ppu.ly ∧ t.ppu.pcnt = s.ppu.pcnt ∧
  t.ppu.pix = s.ppu.pix ∧ t.joypad.buttons = s.joypad.buttons

/-- The general registers but those listed are as before. -/
abbrev State.KeepsRegsBut (s t : State) (l : List Reg8) : Prop := ∀ r, r ∉ l → t.reg r = s.reg r

/-- All registers are as before: the general registers, the flags, `SP` and `PC`. -/
abbrev State.KeepsRegs (s t : State) : Prop :=
  (∀ r, t.reg r = s.reg r) ∧ t.flags = s.flags ∧ t.regs.sp = s.regs.sp ∧ t.regs.pc = s.regs.pc

/-- Only general registers of the list and flags may differ. -/
abbrev State.OnlyRegsAndFlags (s t : State) (l : List Reg8) : Prop :=
  s.KeepsRegsBut t l ∧ t.regs.sp = s.regs.sp ∧ t.regs.pc = s.regs.pc ∧ s.KeepsControl t ∧ s.KeepsHidden t

/-- Only general registers of the list may differ. -/
abbrev State.OnlyRegs (s t : State) (l : List Reg8) : Prop := s.OnlyRegsAndFlags t l ∧ t.flags = s.flags

end Sys2Proof.Machine

namespace Sys2Proof

/-! ### Instructions by what they may write -/

/-- The instructions that write `PC` (45_control.md R271 to R281). -/
def Instr.transfersControl (i : Instr) : Bool :=
  match i with
  | .jrE _ | .jrCcE _ _ | .retCc _ | .jpCcNn _ _ | .jpNn _ | .callCcNn _ _ | .rst _ | .ret | .reti | .callNn _ | .jpHl =>
  true
  | .nop | .ldRrNn _ _ | .ldBcA | .ldDeA | .ldHlIncA | .ldHlDecA | .incRr _ | .incR _ | .incHl | .decR _ | .decHl |
  .ldRN _ _ | .ldHlN _ | .rlca | .rrca | .rla | .rra | .ldNnSp _ | .addHlRr _ | .ldABc | .ldADe | .ldAHlInc | .ldAHlDec |
  .decRr _ | .stop | .daa | .cpl | .scf | .ccf | .ldRR _ _ | .ldRHl _ | .ldHlR _ | .halt | .addAR _ | .addAHl | .addAN _ |
  .adcAR _ | .adcAHl | .adcAN _ | .subR _ | .subHl | .subN _ | .sbcAR _ | .sbcAHl | .sbcAN _ | .andR _ | .andHl | .andN _
  | .xorR _ | .xorHl | .xorN _ | .orR _ | .orHl | .orN _ | .cpR _ | .cpHl | .cpN _ | .pop _ | .push _ | .prefixCb _ |
  .ldhNA _ | .ldhCA | .addSpE _ | .ldNnA _ | .ldhAN _ | .ldhAC | .di | .ldHlSpE _ | .ldSpHl | .ldANn _ | .ei | .undefD3 |
  .undefDB | .undefDD | .undefE3 | .undefE4 | .undefEB | .undefEC | .undefED | .undefF4 | .undefFC | .undefFD | .rlcR _ |
  .rlcHl | .rrcR _ | .rrcHl | .rlR _ | .rlHl | .rrR _ | .rrHl | .slaR _ | .slaHl | .sraR _ | .sraHl | .swapR _ | .swapHl |
  .srlR _ | .srlHl | .bitBR _ _ | .bitBHl _ | .resBR _ _ | .resBHl _ | .setBR _ _ | .setBHl _ => false

/-- The instructions that write at least one flag (42_alu8.md section 1): `POP AF` is the only pop among them. -/
def Instr.writesFlags (i : Instr) : Bool :=
  match i with
  | .incR _ | .incHl | .decR _ | .decHl | .rlca | .rrca | .rla | .rra | .addHlRr _ | .daa | .cpl | .scf | .ccf | .addAR _
  | .addAHl | .addAN _ | .adcAR _ | .adcAHl | .adcAN _ | .subR _ | .subHl | .subN _ | .sbcAR _ | .sbcAHl | .sbcAN _ |
  .andR _ | .andHl | .andN _ | .xorR _ | .xorHl | .xorN _ | .orR _ | .orHl | .orN _ | .cpR _ | .cpHl | .cpN _ | .addSpE _
  | .ldHlSpE _ | .rlcR _ | .rlcHl | .rrcR _ | .rrcHl | .rlR _ | .rlHl | .rrR _ | .rrHl | .slaR _ | .slaHl | .sraR _ |
  .sraHl | .swapR _ | .swapHl | .srlR _ | .srlHl | .bitBR _ _ | .bitBHl _ => true
  | .nop | .ldRrNn _ _ | .ldBcA | .ldDeA | .ldHlIncA | .ldHlDecA | .incRr _ | .ldRN _ _ | .ldHlN _ | .ldNnSp _ | .ldABc |
  .ldADe | .ldAHlInc | .ldAHlDec | .decRr _ | .stop | .jrE _ | .jrCcE _ _ | .ldRR _ _ | .ldRHl _ | .ldHlR _ | .halt |
  .retCc _ | .jpCcNn _ _ | .jpNn _ | .callCcNn _ _ | .push _ | .rst _ | .ret | .reti | .callNn _ | .ldhNA _ | .ldhCA |
  .jpHl | .ldNnA _ | .ldhAN _ | .ldhAC | .di | .ldSpHl | .ldANn _ | .ei | .undefD3 | .undefDB | .undefDD | .undefE3 |
  .undefE4 | .undefEB | .undefEC | .undefED | .undefF4 | .undefFC | .undefFD | .resBR _ _ | .resBHl _ | .setBR _ _ |
  .setBHl _ => false
  | .pop q => q == .af
  | .prefixCb o2 => decide (o2.toNat < 0x80)

/-! ### The cost table (30_encoding.md R121), each entry (taken, not taken) -/

/-- `CYCLES` of the base page, rows x0 to xF of each high nibble; the entry of the prefix byte 0xCB is not used. -/
def cyclesBase : List (Nat × Nat) :=
  [(1, 1), (3, 3), (2, 2), (2, 2), (1, 1), (1, 1), (2, 2), (1, 1),
   (5, 5), (2, 2), (2, 2), (2, 2), (1, 1), (1, 1), (2, 2), (1, 1)] ++
  [(1, 1), (3, 3), (2, 2), (2, 2), (1, 1), (1, 1), (2, 2), (1, 1),
   (3, 3), (2, 2), (2, 2), (2, 2), (1, 1), (1, 1), (2, 2), (1, 1)] ++
  [(3, 2), (3, 3), (2, 2), (2, 2), (1, 1), (1, 1), (2, 2), (1, 1),
   (3, 2), (2, 2), (2, 2), (2, 2), (1, 1), (1, 1), (2, 2), (1, 1)] ++
  [(3, 2), (3, 3), (2, 2), (2, 2), (3, 3), (3, 3), (3, 3), (1, 1),
   (3, 2), (2, 2), (2, 2), (2, 2), (1, 1), (1, 1), (2, 2), (1, 1)] ++
  [(1, 1), (1, 1), (1, 1), (1, 1), (1, 1), (1, 1), (2, 2), (1, 1),
   (1, 1), (1, 1), (1, 1), (1, 1), (1, 1), (1, 1), (2, 2), (1, 1)] ++
  [(1, 1), (1, 1), (1, 1), (1, 1), (1, 1), (1, 1), (2, 2), (1, 1),
   (1, 1), (1, 1), (1, 1), (1, 1), (1, 1), (1, 1), (2, 2), (1, 1)] ++
  [(1, 1), (1, 1), (1, 1), (1, 1), (1, 1), (1, 1), (2, 2), (1, 1),
   (1, 1), (1, 1), (1, 1), (1, 1), (1, 1), (1, 1), (2, 2), (1, 1)] ++
  [(2, 2), (2, 2), (2, 2), (2, 2), (2, 2), (2, 2), (1, 1), (2, 2),
   (1, 1), (1, 1), (1, 1), (1, 1), (1, 1), (1, 1), (2, 2), (1, 1)] ++
  [(1, 1), (1, 1), (1, 1), (1, 1), (1, 1), (1, 1), (2, 2), (1, 1),
   (1, 1), (1, 1), (1, 1), (1, 1), (1, 1), (1, 1), (2, 2), (1, 1)] ++
  [(1, 1), (1, 1), (1, 1), (1, 1), (1, 1), (1, 1), (2, 2), (1, 1),
   (1, 1), (1, 1), (1, 1), (1, 1), (1, 1), (1, 1), (2, 2), (1, 1)] ++
  [(1, 1), (1, 1), (1, 1), (1, 1), (1, 1), (1, 1), (2, 2), (1, 1),
   (1, 1), (1, 1), (1, 1), (1, 1), (1, 1), (1, 1), (2, 2), (1, 1)] ++
  [(1, 1), (1, 1), (1, 1), (1, 1), (1, 1), (1, 1), (2, 2), (1, 1),
   (1, 1), (1, 1), (1, 1), (1, 1), (1, 1), (1, 1), (2, 2), (1, 1)] ++
  [(5, 2), (3, 3), (4, 3), (4, 4), (6, 3), (4, 4), (2, 2), (4, 4),
   (5, 2), (4, 4), (4, 3), (0, 0), (6, 3), (6, 6), (2, 2), (4, 4)] ++
  [(5, 2), (3, 3), (4, 3), (0, 0), (6, 3), (4, 4), (2, 2), (4, 4),
   (5, 2), (4, 4), (4, 3), (0, 0), (6, 3), (0, 0), (2, 2), (4, 4)] ++
  [(3, 3), (3, 3), (2, 2), (0, 0), (0, 0), (4, 4), (2, 2), (4, 4),
   (4, 4), (1, 1), (4, 4), (0, 0), (0, 0), (0, 0), (2, 2), (4, 4)] ++
  [(3, 3), (3, 3), (2, 2), (1, 1), (0, 0), (4, 4), (2, 2), (4, 4),
   (3, 3), (2, 2), (4, 4), (1, 1), (0, 0), (0, 0), (2, 2), (4, 4)]

/-- `CYCLES` of the extended page. -/
def cyclesExtended : List (Nat × Nat) :=
  [(2, 2), (2, 2), (2, 2), (2, 2), (2, 2), (2, 2), (4, 4), (2, 2),
   (2, 2), (2, 2), (2, 2), (2, 2), (2, 2), (2, 2), (4, 4), (2, 2)] ++
  [(2, 2), (2, 2), (2, 2), (2, 2), (2, 2), (2, 2), (4, 4), (2, 2),
   (2, 2), (2, 2), (2, 2), (2, 2), (2, 2), (2, 2), (4, 4), (2, 2)] ++
  [(2, 2), (2, 2), (2, 2), (2, 2), (2, 2), (2, 2), (4, 4), (2, 2),
   (2, 2), (2, 2), (2, 2), (2, 2), (2, 2), (2, 2), (4, 4), (2, 2)] ++
  [(2, 2), (2, 2), (2, 2), (2, 2), (2, 2), (2, 2), (4, 4), (2, 2),
   (2, 2), (2, 2), (2, 2), (2, 2), (2, 2), (2, 2), (4, 4), (2, 2)] ++
  [(2, 2), (2, 2), (2, 2), (2, 2), (2, 2), (2, 2), (3, 3), (2, 2),
   (2, 2), (2, 2), (2, 2), (2, 2), (2, 2), (2, 2), (3, 3), (2, 2)] ++
  [(2, 2), (2, 2), (2, 2), (2, 2), (2, 2), (2, 2), (3, 3), (2, 2),
   (2, 2), (2, 2), (2, 2), (2, 2), (2, 2), (2, 2), (3, 3), (2, 2)] ++
  [(2, 2), (2, 2), (2, 2), (2, 2), (2, 2), (2, 2), (3, 3), (2, 2),
   (2, 2), (2, 2), (2, 2), (2, 2), (2, 2), (2, 2), (3, 3), (2, 2)] ++
  [(2, 2), (2, 2), (2, 2), (2, 2), (2, 2), (2, 2), (3, 3), (2, 2),
   (2, 2), (2, 2), (2, 2), (2, 2), (2, 2), (2, 2), (3, 3), (2, 2)] ++
  [(2, 2), (2, 2), (2, 2), (2, 2), (2, 2), (2, 2), (4, 4), (2, 2),
   (2, 2), (2, 2), (2, 2), (2, 2), (2, 2), (2, 2), (4, 4), (2, 2)] ++
  [(2, 2), (2, 2), (2, 2), (2, 2), (2, 2), (2, 2), (4, 4), (2, 2),
   (2, 2), (2, 2), (2, 2), (2, 2), (2, 2), (2, 2), (4, 4), (2, 2)] ++
  [(2, 2), (2, 2), (2, 2), (2, 2), (2, 2), (2, 2), (4, 4), (2, 2),
   (2, 2), (2, 2), (2, 2), (2, 2), (2, 2), (2, 2), (4, 4), (2, 2)] ++
  [(2, 2), (2, 2), (2, 2), (2, 2), (2, 2), (2, 2), (4, 4), (2, 2),
   (2, 2), (2, 2), (2, 2), (2, 2), (2, 2), (2, 2), (4, 4), (2, 2)] ++
  [(2, 2), (2, 2), (2, 2), (2, 2), (2, 2), (2, 2), (4, 4), (2, 2),
   (2, 2), (2, 2), (2, 2), (2, 2), (2, 2), (2, 2), (4, 4), (2, 2)] ++
  [(2, 2), (2, 2), (2, 2), (2, 2), (2, 2), (2, 2), (4, 4), (2, 2),
   (2, 2), (2, 2), (2, 2), (2, 2), (2, 2), (2, 2), (4, 4), (2, 2)] ++
  [(2, 2), (2, 2), (2, 2), (2, 2), (2, 2), (2, 2), (4, 4), (2, 2),
   (2, 2), (2, 2), (2, 2), (2, 2), (2, 2), (2, 2), (4, 4), (2, 2)] ++
  [(2, 2), (2, 2), (2, 2), (2, 2), (2, 2), (2, 2), (4, 4), (2, 2),
   (2, 2), (2, 2), (2, 2), (2, 2), (2, 2), (2, 2), (4, 4), (2, 2)]

/-- The cost that R121 gives an instruction whose condition, if it has one, has the value `taken`. -/
def tableCost (i : Instr) (taken : Bool) : Nat :=
  let entry :=
    match encode i with
    | [o] => cyclesBase.getD o.toNat (0, 0)
    | o :: n :: _ => if o = 0xCB then cyclesExtended.getD n.toNat (0, 0) else cyclesBase.getD o.toNat (0, 0)
    | [] => (0, 0)
  if taken then entry.1 else entry.2

/-- The value of the condition of an instruction; an instruction without one has both costs equal (R121). -/
def Instr.condition (i : Instr) (f : Machine.Flags) : Bool :=
  match i with
  | .jrCcE cc _ | .jpCcNn cc _ | .callCcNn cc _ | .retCc cc => f.cond cc
  | .nop | .ldRrNn _ _ | .ldBcA | .ldDeA | .ldHlIncA | .ldHlDecA | .incRr _ | .incR _ | .incHl | .decR _ | .decHl |
  .ldRN _ _ | .ldHlN _ | .rlca | .rrca | .rla | .rra | .ldNnSp _ | .addHlRr _ | .ldABc | .ldADe | .ldAHlInc | .ldAHlDec |
  .decRr _ | .stop | .jrE _ | .daa | .cpl | .scf | .ccf | .ldRR _ _ | .ldRHl _ | .ldHlR _ | .halt | .addAR _ | .addAHl |
  .addAN _ | .adcAR _ | .adcAHl | .adcAN _ | .subR _ | .subHl | .subN _ | .sbcAR _ | .sbcAHl | .sbcAN _ | .andR _ | .andHl
  | .andN _ | .xorR _ | .xorHl | .xorN _ | .orR _ | .orHl | .orN _ | .cpR _ | .cpHl | .cpN _ | .pop _ | .jpNn _ | .push _
  | .rst _ | .ret | .reti | .prefixCb _ | .callNn _ | .ldhNA _ | .ldhCA | .addSpE _ | .jpHl | .ldNnA _ | .ldhAN _ | .ldhAC
  | .di | .ldHlSpE _ | .ldSpHl | .ldANn _ | .ei | .undefD3 | .undefDB | .undefDD | .undefE3 | .undefE4 | .undefEB |
  .undefEC | .undefED | .undefF4 | .undefFC | .undefFD | .rlcR _ | .rlcHl | .rrcR _ | .rrcHl | .rlR _ | .rlHl | .rrR _ |
  .rrHl | .slaR _ | .slaHl | .sraR _ | .sraHl | .swapR _ | .swapHl | .srlR _ | .srlHl | .bitBR _ _ | .bitBHl _ |
  .resBR _ _ | .resBHl _ | .setBR _ _ | .setBHl _ => true

end Sys2Proof
end

