-- ==== Sys2Proof/WellFormed.lean ====
section
/-! DEFINITION. Which terms of `Instr` stand for an encoded instruction. The operand types admit exactly what the encodings admit
(no register code 6, bit and restart indices below 8, every immediate legal: spec 30_encoding.md R103, R112, R113, R117), so
one check is left: `prefixCb` is not the canonical spelling of any word (R295, log entry 6). -/

namespace Sys2Proof

/-- The instruction is the canonical reading of its own encoding. -/
def Instr.wellFormed (i : Instr) : Bool :=
  match i with
  | .nop | .ldRrNn _ _ | .ldBcA | .ldDeA | .ldHlIncA | .ldHlDecA | .incRr _ | .incR _ | .incHl | .decR _ | .decHl
  | .ldRN _ _ | .ldHlN _ | .rlca | .rrca | .rla | .rra | .ldNnSp _ | .addHlRr _ | .ldABc | .ldADe | .ldAHlInc | .ldAHlDec
  | .decRr _ | .stop | .jrE _ | .jrCcE _ _ | .daa | .cpl | .scf | .ccf | .ldRR _ _ | .ldRHl _ | .ldHlR _ | .halt | .addAR _
  | .addAHl | .addAN _ | .adcAR _ | .adcAHl | .adcAN _ | .subR _ | .subHl | .subN _ | .sbcAR _ | .sbcAHl | .sbcAN _
  | .andR _ | .andHl | .andN _ | .xorR _ | .xorHl | .xorN _ | .orR _ | .orHl | .orN _ | .cpR _ | .cpHl | .cpN _ | .retCc _
  | .pop _ | .jpCcNn _ _ | .jpNn _ | .callCcNn _ _ | .push _ | .rst _ | .ret | .reti | .callNn _ | .ldhNA _ | .ldhCA
  | .addSpE _ | .jpHl | .ldNnA _ | .ldhAN _ | .ldhAC | .di | .ldHlSpE _ | .ldSpHl | .ldANn _ | .ei | .undefD3 | .undefDB
  | .undefDD | .undefE3 | .undefE4 | .undefEB | .undefEC | .undefED | .undefF4 | .undefFC | .undefFD | .rlcR _ | .rlcHl
  | .rrcR _ | .rrcHl | .rlR _ | .rlHl | .rrR _ | .rrHl | .slaR _ | .slaHl | .sraR _ | .sraHl | .swapR _ | .swapHl | .srlR _
  | .srlHl | .bitBR _ _ | .bitBHl _ | .resBR _ _ | .resBHl _ | .setBR _ _ | .setBHl _ => true
  | .prefixCb _ => false

end Sys2Proof
end

