-- ==== Sys2Proof/Certificates/Slice0/Obligations.lean ====
section
/-! DEFINITION. The statements about the machine, for the provers. Each docstring names the rules of the spec that it
formalises. `s.KeepsMemory t`, `s.Stores a v t`, `s.OnlyRegs t l` and the other frames are defined in Safety.lean; `byte233`
and the like write an opcode byte field by field as the rules print it. Where a rule rests on a decision of
92_eei_decisions.md, that decision is the spec's own. -/

open Sys2Proof Sys2Proof.Machine

/-! ### Reset and invariants -/

/-- R61, R382: the state after reset, whatever the two images are. -/
def Obligations.ResetState : Prop :=
  ∀ rom bootRom : Memory,
    let s := State.resetOn rom bootRom
    (∀ r, s.reg r = 0x00) ∧ s.flags.toByte = 0x00 ∧ s.regs.sp = 0x0000 ∧ s.regs.pc = 0x0000 ∧
    s.ime = false ∧ s.ie = 0x00 ∧ s.iflag = 0x00 ∧ s.halted = false ∧ s.boot = true ∧
    (∀ a, PlainStorage a → s.peek a = 0x00) ∧
    s.timer.div = 0x00 ∧ s.timer.tima = 0x00 ∧ s.timer.tma = 0x00 ∧ s.timer.tac = 0b000 ∧
    s.timer.tsub = 0 ∧ s.timer.tacc = 0 ∧ s.timer.traw = 0 ∧
    s.ppu.mode = .oamScan ∧ s.ppu.ly = 0 ∧ s.ppu.pcnt = 0 ∧ s.ppu.lcdc = 0x00 ∧ s.ppu.stat = 0b0000 ∧ s.ppu.scy = 0x00 ∧
    s.ppu.scx = 0x00 ∧ s.ppu.lyc = 0x00 ∧ s.ppu.bgp = 0x00 ∧ s.ppu.obp0 = 0x00 ∧ s.ppu.obp1 = 0x00 ∧ s.ppu.wy = 0x00 ∧
    s.ppu.wx = 0x00 ∧ (∀ y x, y < 144 → x < 160 → s.ppu.pix.cell y x = 0b00) ∧
    s.joypad.psel = 0b00 ∧ s.joypad.buttons = 0x00 ∧ s.diags = [] ∧
    s.rom = rom ∧ s.bootRom = bootRom ∧ s.fetch8.1 = bootRom.read 0x00

/-- The invariant holds after reset, for every pair of images in canonical form. -/
def Obligations.ResetMeetsInvariant : Prop :=
  ∀ rom bootRom : Memory, rom.wf → (∀ c ∈ rom.cells, c.1 < 0x8000) → bootRom.wf → (∀ c ∈ bootRom.cells, c.1 < 0x100) →
    (State.resetOn rom bootRom).Inv

/-- Every step keeps the invariant: memories and pixel buffer canonical and in range, the PPU's and the timer's ranges, the
mode `VBLANK` exactly on lines 144 to 153, the cost at most 6 units. -/
def Obligations.StepKeepsInvariant : Prop :=
  ∀ s t : State, s.Inv → step s = .next t → t.Inv

/-- There are no synchronous exceptions: every step and every instruction answers a next state, from every state. -/
def Obligations.EveryStepCompletes : Prop :=
  (∀ s : State, ∃ t, step s = .next t) ∧ ∀ (i : Instr) (s : State), ∃ t, exec i s = .next t

/-- No step changes an image, and no step sets `boot` again. -/
def Obligations.ImagesNeverChange : Prop :=
  ∀ s t : State, step s = .next t → t.rom = s.rom ∧ t.bootRom = s.bootRom ∧ (s.boot = false → t.boot = false)

/-! ### The bus -/

/-- R76, R77, R78, R80, R83, R84: a byte written to video RAM, external RAM, work RAM, object attribute memory or high RAM
is read back, and so is one written to 0xFFFF (`IE`); every other address reads as before, and no register, latch or hidden
state changes. -/
def Obligations.PlainStorageRoundTrip : Prop :=
  ∀ (s : State) (a : Word) (v : Byte),
    (s.ram.wf → PlainStorage a → (s.writeByte a v).peek a = v) ∧
    (s.writeByte 0xFFFF v).peek 0xFFFF = v ∧ (s.writeByte 0xFFFF v).ie = v ∧ s.peek 0xFFFF = s.ie ∧
    (PlainStorage a ∨ a = 0xFFFF →
      (∀ b, b ≠ a → (s.writeByte a v).peek b = s.peek b) ∧ (s.writeByte a v).boot = s.boot ∧
      s.KeepsRegs (s.writeByte a v) ∧ s.KeepsControl (s.writeByte a v) ∧ s.KeepsHidden (s.writeByte a v))

/-- R79 at the spec's parameter value, R81, and the unmapped offsets of R82: 0xE000..0xFDFF, 0xFEA0..0xFEFF and the offsets
0x01..0x03, 0x08..0x0E, 0x10..0x3F, 0x4C..0x7F of the I/O window read as 0xFF and discard writes. -/
def Obligations.UnmappedAddresses : Prop :=
  ∀ (s : State) (a : Word) (v : Byte),
    ((0xE000 ≤ a.toNat ∧ a.toNat < 0xFE00) ∨ (0xFEA0 ≤ a.toNat ∧ a.toNat < 0xFF00) ∨
     (0xFF01 ≤ a.toNat ∧ a.toNat ≤ 0xFF03) ∨ (0xFF08 ≤ a.toNat ∧ a.toNat ≤ 0xFF0E) ∨
     (0xFF10 ≤ a.toNat ∧ a.toNat ≤ 0xFF3F) ∨ (0xFF4C ≤ a.toNat ∧ a.toNat ≤ 0xFF7F)) →
    s.peek a = 0xFF ∧ s.writeByte a v = s

/-- R74: the overlay is read below 0x0100 while `boot` is set; the first read of 0x0100 returns the byte of the ROM and
clears `boot`; no other read changes anything; writes to 0x0000..0x0100 do not touch `boot`. -/
def Obligations.BootOverlay : Prop :=
  ∀ (s : State) (a : Word) (v : Byte),
    (a.toNat < 0x0100 → (s.readByte a).1 = if s.boot then s.bootRom.read a.toNat else s.rom.read a.toNat) ∧
    s.readByte 0x0100 = (s.rom.read 0x0100, { s with boot := false }) ∧
    (a ≠ 0x0100 → (s.readByte a).2 = s) ∧
    (a.toNat ≤ 0x0100 → (s.writeByte a v).boot = s.boot)

/-- R75, R97: addresses 0x0100 to 0x7FFF read the ROM and those below 0x0100 too once `boot` is clear; a write below 0x8000
changes nothing; an image shorter than 0x8000 bytes, or a boot program that is not 256 bytes long, gives no machine. -/
def Obligations.RomWindow : Prop :=
  (∀ (s : State) (a : Word) (v : Byte), a.toNat < 0x8000 →
    (0x0100 ≤ a.toNat ∨ s.boot = false → s.peek a = s.rom.read a.toNat) ∧ s.writeByte a v = s) ∧
  (∀ rom bootRom : List Byte,
    (State.load rom bootRom = none ↔ rom.length < 0x8000 ∨ bootRom.length ≠ 256) ∧
    ∀ s, State.load rom bootRom = some s →
      (∀ k, k < 0x8000 → s.rom.read k = rom.getD k 0x00) ∧ (∀ k, k < 0x100 → s.bootRom.read k = bootRom.getD k 0x00))

/-- A store changes no reading but those of `storeTouches`, no CPU register, latch or output, no image, no hidden counter of
the timer and the PPU, no mode and no button (the read-only ranges and the side effects of R89); it clears `boot` only where it
starts a bulk transfer from page 0x01. -/
def Obligations.StoreFrame : Prop :=
  ∀ (s : State) (a : Word) (v : Byte),
    (∀ b, ¬storeTouches s.boot a v b → (s.writeByte a v).peek b = s.peek b) ∧
    s.KeepsRegs (s.writeByte a v) ∧ s.KeepsControl (s.writeByte a v) ∧ s.KeepsHidden (s.writeByte a v) ∧
    (s.writeByte a v).boot = (s.boot && !decide (a = 0xFF46 ∧ v = 0x01)) ∧ (s.writeByte a v).cost = s.cost

/-- R90: a write of `v` to 0xFF46 copies the 160 bytes at `v:0x00` to `v:0x9F`, as they read before the write, into the
object attribute memory; with source page 0x01 it clears `boot`; nothing else changes. -/
def Obligations.BulkTransfer : Prop :=
  ∀ (s : State) (v : Byte), s.ram.wf →
    let t := s.writeByte 0xFF46 v
    (∀ i : Nat, i < 160 → t.peek (0xFE00 + BitVec.ofNat 16 i) = s.peek (BitVec.ofNat 16 (256 * v.toNat + i))) ∧
    t.boot = (s.boot && decide (v ≠ 0x01)) ∧
    (∀ b, ¬OamAddr b → ¬(v = 0x01 ∧ s.boot = true ∧ b.toNat < 0x100) → t.peek b = s.peek b) ∧
    s.KeepsRegs t ∧ s.KeepsControl t ∧ s.KeepsHidden t ∧ t.cost = s.cost

/-- R85: a word access is two byte accesses, the lower address first and the low byte there, the second address modulo 2^16.
-/
def Obligations.WordAccesses : Prop :=
  ∀ (s : State) (a w : Word),
    (s.readWord a).1 = BitVec.ofNat 16 (256 * (s.peek (a + 1)).toNat + (s.peek a).toNat) ∧
    (s.readWord a).2 = ((s.readByte a).2.readByte (a + 1)).2 ∧
    s.writeWord a w =
      (s.writeByte a (BitVec.ofNat 8 (w.toNat % 256))).writeByte (a + 1) (BitVec.ofNat 8 (w.toNat / 256)) ∧
    (s.MemInv → PlainStorage a → PlainStorage (a + 1) →
      ((s.writeWord a w).peek a).toNat = w.toNat % 256 ∧ ((s.writeWord a w).peek (a + 1)).toNat = w.toNat / 256 ∧
      ∀ b, b ≠ a → b ≠ a + 1 → (s.writeWord a w).peek b = s.peek b)

/-- R37, R38, R41, R42, R44, R47, R49 and the plain registers: what each register of the I/O window reads as after a write
of `v`, and what the write leaves alone. -/
def Obligations.RegisterFormats : Prop :=
  ∀ (s : State) (v : Byte),
    (let b := s.joypad.buttons
     (s.writeByte 0xFF00 v).peek 0xFF00 =
       (0xC0 : Byte) ||| (v &&& (0x30 : Byte)) |||
         ((0x0F : Byte) &&& ~~~((if v.getLsbD 4 = false then b &&& 0x0F else 0x00) ||| (if v.getLsbD 5 = false then b >>> 4 else 0x00)))) ∧
    (let t := s.writeByte 0xFF04 v
     t.peek 0xFF04 = 0x00 ∧ t.timer = { s.timer with div := 0x00 }) ∧
    (s.writeByte 0xFF05 v).peek 0xFF05 = v ∧ (s.writeByte 0xFF06 v).peek 0xFF06 = v ∧
    (let t := s.writeByte 0xFF07 v
     t.peek 0xFF07 = (0xF8 : Byte) ||| (v &&& (0x07 : Byte)) ∧ t.timer.tacc = s.timer.tacc) ∧
    (s.writeByte 0xFF0F v).peek 0xFF0F = v ∧ (s.writeByte 0xFF0F v).iflag = v ∧
    (s.writeByte 0xFF40 v).peek 0xFF40 = v ∧
    (s.writeByte 0xFF41 v).peek 0xFF41 =
      0x80 ||| (v &&& (0x78 : Byte)) ||| (if s.ppu.ly = s.ppu.lyc then (0x04 : Byte) else 0x00) |||
        (match s.ppu.mode with | .hblank => (0x00 : Byte) | .vblank => 1 | .oamScan => 2 | .pixelTransfer => 3) ∧
    (s.writeByte 0xFF42 v).peek 0xFF42 = v ∧ (s.writeByte 0xFF43 v).peek 0xFF43 = v ∧
    (s.writeByte 0xFF44 v = s ∧ s.peek 0xFF44 = s.ppu.ly) ∧
    ((s.writeByte 0xFF45 v).peek 0xFF45 = v ∧ (s.writeByte 0xFF45 v).iflag = s.iflag) ∧
    s.peek 0xFF46 = 0xFF ∧
    (s.writeByte 0xFF47 v).peek 0xFF47 = v ∧ (s.writeByte 0xFF48 v).peek 0xFF48 = v ∧
    (s.writeByte 0xFF49 v).peek 0xFF49 = v ∧ (s.writeByte 0xFF4A v).peek 0xFF4A = v ∧ (s.writeByte 0xFF4B v).peek 0xFF4B = v

/-! ### Encoding -/

/-- Decoding the encoding of any well-formed instruction, with every operand value, gives it back and leaves the bytes after
it. Only `prefixCb`, the model's second spelling of the extended page (log entry 6), is not well-formed. -/
def Obligations.DecodeAfterEncode : Prop :=
  ∀ i : Instr, i.wellFormed = true → ∀ rest, decode (encode i ++ rest) = .ok (i, rest)

/-- Encoding what the decoder reads gives the bytes it read: no two words are one instruction, and what the decoder gives is
well-formed and as long as R100 says. -/
def Obligations.EncodeAfterDecode : Prop :=
  ∀ (bytes : List Byte) (i : Instr) (rest : List Byte), decode bytes = .ok (i, rest) →
    i.wellFormed = true ∧ encode i ++ rest = bytes ∧ (encode i).length = i.length ∧ 1 ≤ i.length ∧ i.length ≤ 3

/-- A few words written out bit by bit from the rules' encodings. -/
def Obligations.SampleWords : Prop :=
  decode [0b01111000] = .ok (.ldRR .a .b, []) ∧ decode [0b00110110, 0xFF] = .ok (.ldHlN 0xFF, []) ∧
  decode [0b00110001, 0xFE, 0xFF] = .ok (.ldRrNn .sp 0xFFFE, []) ∧ decode [0b11110101] = .ok (.push .af, []) ∧
  decode [0b10001001] = .ok (.adcAR .c, []) ∧ decode [0b00111001] = .ok (.addHlRr .sp, []) ∧
  decode [0b00100000, 0xFB] = .ok (.jrCcE .nz 0xFB, []) ∧ decode [0b11011100, 0x00, 0xC1] = .ok (.callCcNn .c 0xC100, []) ∧
  decode [0b11101111] = .ok (.rst 5, []) ∧ decode [0b01110110] = .ok (.halt, []) ∧
  decode [0xCB, 0b01111100] = .ok (.bitBR 7 .h, []) ∧ decode [0xCB, 0b11001011] = .ok (.setBR 1 .e, []) ∧
  decode [0b11101101] = .ok (.undefED, []) ∧ decode [] = .error .noBytes ∧ decode [0xC3, 0x50] = .error .truncated

/-- R295: the prefix byte with the byte after it does exactly what the extended-page instruction of that byte does, it has
no effect and no cost of its own, and it completes. `prefixCb` is a second spelling that the decoder never gives (log entry
6). -/
def Obligations.PrefixByte : Prop :=
  ∀ (o2 : Byte) (s : State),
    ∃ j, decode [0xCB, o2] = .ok (j, []) ∧ j.length = 2 ∧ exec (.prefixCb o2) s = exec j s ∧
      ∃ t, exec (.prefixCb o2) s = .next t

/-! ### The step -/

/-- R300 (4) to (6), R118, R26: with no halt and no interrupt to take, a step whose bytes at `PC` decode to `i` is `i` run
on the state with `PC` past `i`'s bytes (and `boot` clear if 0x0100 was among them), then the timer and then the PPU
advanced by the cost. -/
def Obligations.StepRunsDecodedInstruction : Prop :=
  ∀ (s : State) (i : Instr) (rest : List Byte), s.halted = false → s.accepted = none →
    decode [s.peek s.regs.pc, s.peek (s.regs.pc + 1), s.peek (s.regs.pc + 2)] = .ok (i, rest) →
    ∃ u t,
      u = { s with
            regs := { s.regs with pc := s.regs.pc + BitVec.ofNat 16 i.length }
            boot := s.boot && !(List.range i.length).any (fun k => s.regs.pc + BitVec.ofNat 16 k == 0x0100) } ∧
      exec i u = .next t ∧ step s = .next ((t.timerTick t.cost).ppuAdvance t.cost)

/-- R375, R26: a step that runs an instruction which is no control transfer advances `PC` by the instruction's length,
modulo 2^16; the host's single step is one such step, then paused, with one pause notification (the session
that counts notifications is the model's, log entry 8). -/
def Obligations.SingleStepAdvancesPc : Prop :=
  ∀ (h : HostSession) (i : Instr) (rest : List Byte), h.machine.halted = false → h.machine.accepted = none →
    decode [h.machine.peek h.machine.regs.pc, h.machine.peek (h.machine.regs.pc + 1), h.machine.peek (h.machine.regs.pc + 2)] =
      .ok (i, rest) →
    i.transfersControl = false →
    ∃ t, step h.machine = .next t ∧ t.regs.pc = h.machine.regs.pc + BitVec.ofNat 16 i.length ∧
      h.singleStep = .next { machine := t, running := false, notifications := h.notifications + 1 }

/-- R303, R304, R305: an interrupt is to be taken if and only if `IME` is set and one of the five sources is pending and
enabled; of the sources that are pending and enabled the lowest-numbered is taken, in a step that fetches nothing: its
pending bit is cleared, `IME` is cleared, `PC` is pushed (low byte at the new `SP`), `PC` becomes the vector, the cost is 5
units by which the devices then advance. What is not listed is unchanged. -/
def Obligations.InterruptEntry : Prop :=
  (∀ s : State, (∃ i, s.accepted = some i) ↔ s.ime = true ∧ s.iflag &&& s.ie &&& 0x1F ≠ 0) ∧
  ∀ (s : State) (i : Interrupt), s.ime = true → (s.iflag &&& s.ie).getLsbD i.index = true →
    (∀ j : Interrupt, j.index < i.index → (s.iflag &&& s.ie).getLsbD j.index = false) →
    ∃ u, step s = .next ((u.timerTick 5).ppuAdvance 5) ∧ u.cost = 5 ∧ u.ime = false ∧ u.halted = false ∧
      u.regs.pc = BitVec.ofNat 16 (0x40 + 8 * i.index) ∧ u.regs.sp = s.regs.sp - 2 ∧
      (∀ r, u.reg r = s.reg r) ∧ u.flags = s.flags ∧ u.diags = s.diags ∧ s.KeepsHidden u ∧
      (∀ b, u.peek b =
        (({ s with iflag := s.iflag &&& ~~~((1 : Byte) <<< i.index) }).writeWord (s.regs.sp - 2) s.regs.pc).peek b) ∧
      (s.regs.sp - 2 ≠ 0xFF0F → s.regs.sp - 1 ≠ 0xFF0F → u.iflag = s.iflag &&& ~~~((1 : Byte) <<< i.index)) ∧
      (s.MemInv → PlainStorage (s.regs.sp - 2) → PlainStorage (s.regs.sp - 1) →
        (u.peek (s.regs.sp - 2)).toNat = s.regs.pc.toNat % 256 ∧ (u.peek (s.regs.sp - 1)).toNat = s.regs.pc.toNat / 256 ∧
        ∀ b, b ≠ s.regs.sp - 2 → b ≠ s.regs.sp - 1 → b ≠ 0xFF0F → u.peek b = s.peek b)

/-- R320: a halted step with no source pending and enabled fetches nothing, changes no CPU state and costs one unit, by
which the timer and the PPU advance. -/
def Obligations.HaltedStep : Prop :=
  ∀ s : State, s.halted = true → s.iflag &&& s.ie &&& 0x1F = 0 →
    ∃ t, step s = .next t ∧ t = (({ s with cost := 1 }).timerTick 1).ppuAdvance 1 ∧ t.regs = s.regs ∧ t.halted = true ∧
      t.ime = s.ime ∧ t.ie = s.ie ∧ t.boot = s.boot ∧ t.ram = s.ram ∧ t.diags = s.diags ∧ t.cost = 1

/-- R321: the first halted step at which a source is pending and enabled goes on, whatever `IME` is, as the step of the same
machine that is not halted: with `IME` set it takes the interrupt, with `IME` clear it runs the instruction after the
`HALT`. -/
def Obligations.WakeUp : Prop :=
  ∀ s : State, s.halted = true → s.iflag &&& s.ie &&& 0x1F ≠ 0 →
    step s = step { s with halted := false } ∧
    (s.ime = true → ∃ i t, State.accepted { s with halted := false } = some i ∧ step s = .next t ∧ t.halted = false ∧
      t.regs.pc = i.vector) ∧
    (s.ime = false → State.accepted { s with halted := false } = none)

/-- R121, R122: an instruction sets the cost that the table `CYCLES` gives its opcode, the first entry where its condition
holds and the second where it does not. -/
def Obligations.CostsOfTheTable : Prop :=
  ∀ (i : Instr) (s t : State), exec i s = .next t → t.cost = tableCost i (i.condition s.flags)

/-! ### What no instruction does -/

/-- R22: flags are written only by the instructions of the table of 42_alu8.md section 1. -/
def Obligations.FlagsWrittenOnlyAsListed : Prop :=
  ∀ (i : Instr) (s t : State), exec i s = .next t → i.writesFlags = false → t.flags = s.flags

/-- R27, R30, R57: within instructions, `IME` is written only by `DI`, `EI` and `RETI`, `halted` only by `HALT`, the
diagnostic stream only by the undefined opcodes, which append one record. -/
def Obligations.LatchesWrittenOnlyByTheirInstructions : Prop :=
  ∀ (i : Instr) (s t : State), exec i s = .next t →
    (i ≠ .di → i ≠ .ei → i ≠ .reti → t.ime = s.ime) ∧ (i ≠ .halt → t.halted = s.halted) ∧
    (t.diags = s.diags ∨
      (i ∈ [.undefD3, .undefDB, .undefDD, .undefE3, .undefE4, .undefEB, .undefEC, .undefED, .undefF4, .undefFC, .undefFD] ∧
        ∃ d, t.diags = s.diags ++ [d]))

/-- No instruction reaches the hidden state of the timer and the PPU, the line, the pixel buffer, the buttons or the images:
the devices change only at the end of a step (R92 (4), R56). -/
def Obligations.HiddenStateOutOfReach : Prop :=
  ∀ (i : Instr) (s t : State), exec i s = .next t → s.KeepsHidden t

/-! ### 8-bit loads and stores -/

/-- R131, R132: `LD r,r'` and `LD r,n`. -/
def Obligations.LoadRegister : Prop :=
  ∀ (s : State) (r' r : Reg8) (n : Byte),
    (Encodes [byte233 0b01 r'.bits r.bits] (.ldRR r' r) ∧
      ∃ t, exec (.ldRR r' r) s = .next t ∧ t.cost = 1 ∧ t.reg r' = s.reg r ∧ s.OnlyRegs t [r'] ∧ s.KeepsMemory t) ∧
    (Encodes [byte233 0b00 r'.bits 0b110, n] (.ldRN r' n) ∧
      ∃ t, exec (.ldRN r' n) s = .next t ∧ t.cost = 2 ∧ t.reg r' = n ∧ s.OnlyRegs t [r'] ∧ s.KeepsMemory t)

/-- R133, R136, R137, R140, R142, R144, R146, R148: the loads of one byte from memory, each from the address its rule gives;
`LD A,(HL-)` and `LD A,(HL+)` load from the old `HL` and step it modulo 2^16. -/
def Obligations.LoadFromMemory : Prop :=
  ∀ (s : State) (r' : Reg8) (n : Byte) (nn : Word),
    (Encodes [byte233 0b01 r'.bits 0b110] (.ldRHl r') ∧
      ∃ t, exec (.ldRHl r') s = .next t ∧ t.cost = 2 ∧ t.reg r' = s.peek (s.pair .hl) ∧ s.OnlyRegs t [r'] ∧
        s.KeepsMemoryReading (s.pair .hl) t) ∧
    (Encodes [0b00001010] .ldABc ∧
      ∃ t, exec .ldABc s = .next t ∧ t.cost = 2 ∧ t.reg .a = s.peek (s.pair .bc) ∧ s.OnlyRegs t [.a] ∧
        s.KeepsMemoryReading (s.pair .bc) t) ∧
    (Encodes [0b00011010] .ldADe ∧
      ∃ t, exec .ldADe s = .next t ∧ t.cost = 2 ∧ t.reg .a = s.peek (s.pair .de) ∧ s.OnlyRegs t [.a] ∧
        s.KeepsMemoryReading (s.pair .de) t) ∧
    (Encodes [0b11111010, nn.setWidth 8, (nn >>> 8).setWidth 8] (.ldANn nn) ∧
      ∃ t, exec (.ldANn nn) s = .next t ∧ t.cost = 4 ∧ t.reg .a = s.peek nn ∧ s.OnlyRegs t [.a] ∧
        s.KeepsMemoryReading nn t) ∧
    (Encodes [0b11110010] .ldhAC ∧
      ∃ t, exec .ldhAC s = .next t ∧ t.cost = 2 ∧ t.reg .a = s.peek (0xFF00 + (s.reg .c).setWidth 16) ∧ s.OnlyRegs t [.a] ∧
        s.KeepsMemory t) ∧
    (Encodes [0b11110000, n] (.ldhAN n) ∧
      ∃ t, exec (.ldhAN n) s = .next t ∧ t.cost = 3 ∧ t.reg .a = s.peek (0xFF00 + n.setWidth 16) ∧ s.OnlyRegs t [.a] ∧
        s.KeepsMemory t) ∧
    (Encodes [0b00111010] .ldAHlDec ∧
      ∃ t, exec .ldAHlDec s = .next t ∧ t.cost = 2 ∧ t.reg .a = s.peek (s.pair .hl) ∧ t.pair .hl = s.pair .hl - 1 ∧
        s.OnlyRegs t [.a, .h, .l] ∧ s.KeepsMemoryReading (s.pair .hl) t) ∧
    (Encodes [0b00101010] .ldAHlInc ∧
      ∃ t, exec .ldAHlInc s = .next t ∧ t.cost = 2 ∧ t.reg .a = s.peek (s.pair .hl) ∧ t.pair .hl = s.pair .hl + 1 ∧
        s.OnlyRegs t [.a, .h, .l] ∧ s.KeepsMemoryReading (s.pair .hl) t)

/-- R134, R135, R138, R139, R141, R143, R145, R147, R149: the stores of one byte, each to the address its rule gives; no
register changes, but that `LD (HL-),A` and `LD (HL+),A` store at the old `HL` and step it modulo 2^16. -/
def Obligations.StoreByte : Prop :=
  ∀ (s : State) (r : Reg8) (n : Byte) (nn : Word),
    (Encodes [byte233 0b01 0b110 r.bits] (.ldHlR r) ∧
      ∃ t, exec (.ldHlR r) s = .next t ∧ t.cost = 2 ∧ s.Stores (s.pair .hl) (s.reg r) t ∧ s.OnlyRegs t []) ∧
    (Encodes [0b00110110, n] (.ldHlN n) ∧
      ∃ t, exec (.ldHlN n) s = .next t ∧ t.cost = 3 ∧ s.Stores (s.pair .hl) n t ∧ s.OnlyRegs t []) ∧
    (Encodes [0b00000010] .ldBcA ∧
      ∃ t, exec .ldBcA s = .next t ∧ t.cost = 2 ∧ s.Stores (s.pair .bc) (s.reg .a) t ∧ s.OnlyRegs t []) ∧
    (Encodes [0b00010010] .ldDeA ∧
      ∃ t, exec .ldDeA s = .next t ∧ t.cost = 2 ∧ s.Stores (s.pair .de) (s.reg .a) t ∧ s.OnlyRegs t []) ∧
    (Encodes [0b11101010, nn.setWidth 8, (nn >>> 8).setWidth 8] (.ldNnA nn) ∧
      ∃ t, exec (.ldNnA nn) s = .next t ∧ t.cost = 4 ∧ s.Stores nn (s.reg .a) t ∧ s.OnlyRegs t []) ∧
    (Encodes [0b11100010] .ldhCA ∧
      ∃ t, exec .ldhCA s = .next t ∧ t.cost = 2 ∧ s.Stores (0xFF00 + (s.reg .c).setWidth 16) (s.reg .a) t ∧
        s.OnlyRegs t []) ∧
    (Encodes [0b11100000, n] (.ldhNA n) ∧
      ∃ t, exec (.ldhNA n) s = .next t ∧ t.cost = 3 ∧ s.Stores (0xFF00 + n.setWidth 16) (s.reg .a) t ∧ s.OnlyRegs t []) ∧
    (Encodes [0b00110010] .ldHlDecA ∧
      ∃ t, exec .ldHlDecA s = .next t ∧ t.cost = 2 ∧ s.Stores (s.pair .hl) (s.reg .a) t ∧ t.pair .hl = s.pair .hl - 1 ∧
        s.OnlyRegs t [.h, .l]) ∧
    (Encodes [0b00100010] .ldHlIncA ∧
      ∃ t, exec .ldHlIncA s = .next t ∧ t.cost = 2 ∧ s.Stores (s.pair .hl) (s.reg .a) t ∧ t.pair .hl = s.pair .hl + 1 ∧
        s.OnlyRegs t [.h, .l])

/-! ### 16-bit loads and the stack -/

/-- R160, R162: `LD rr,nn` and `LD SP,HL`. -/
def Obligations.LoadPair : Prop :=
  ∀ (s : State) (p : Pair) (nn : Word),
    (Encodes [byte224 0b00 p.bits 0b0001, nn.setWidth 8, (nn >>> 8).setWidth 8] (.ldRrNn p nn) ∧
      ∃ t, exec (.ldRrNn p nn) s = .next t ∧ t.cost = 3 ∧ t.pair p = nn ∧ s.KeepsRegsBut t p.halves ∧
        (p ≠ .sp → t.regs.sp = s.regs.sp) ∧ t.regs.pc = s.regs.pc ∧ t.flags = s.flags ∧ s.KeepsControl t ∧ s.KeepsHidden t ∧
        s.KeepsMemory t) ∧
    (Encodes [0b11111001] .ldSpHl ∧
      ∃ t, exec .ldSpHl s = .next t ∧ t.cost = 2 ∧ t.regs.sp = s.pair .hl ∧ (∀ r, t.reg r = s.reg r) ∧
        t.regs.pc = s.regs.pc ∧ t.flags = s.flags ∧ s.KeepsControl t ∧ s.KeepsHidden t ∧ s.KeepsMemory t)

/-- R161: `LD (nn),SP` stores the low byte at `nn` and then the high byte at `nn + 1`, modulo 2^16. -/
def Obligations.StoreStackPointer : Prop :=
  ∀ (s : State) (nn : Word),
    Encodes [0b00001000, nn.setWidth 8, (nn >>> 8).setWidth 8] (.ldNnSp nn) ∧
    ∃ t, exec (.ldNnSp nn) s = .next t ∧ t.cost = 5 ∧ s.OnlyRegs t [] ∧
      ((s.writeByte nn (s.regs.sp.setWidth 8)).Stores (nn + 1) ((s.regs.sp >>> 8).setWidth 8) t) ∧
      s.Stores nn (s.regs.sp.setWidth 8) (s.writeByte nn (s.regs.sp.setWidth 8))

/-- R163, R223: `LD HL,SP+e` and `ADD SP,e`: the displacement is sign-extended before the addition, `Z` and `N` are cleared,
`H` and `C` are the carries out of bits 3 and 7 of the addition of the low byte of `SP` and the unsigned byte `e`. -/
def Obligations.StackPointerPlusDisplacement : Prop :=
  ∀ (s : State) (e : Byte),
    let sum : Word := BitVec.ofInt 16 (s.regs.sp.toNat + e.toInt)
    let f : Flags :=
      { z := false, n := false, h := decide (s.regs.sp.toNat % 16 + e.toNat % 16 > 15)
        c := decide (s.regs.sp.toNat % 256 + e.toNat > 255) }
    (Encodes [0b11111000, e] (.ldHlSpE e) ∧
      ∃ t, exec (.ldHlSpE e) s = .next t ∧ t.cost = 3 ∧ t.pair .hl = sum ∧ t.flags = f ∧ s.OnlyRegsAndFlags t [.h, .l] ∧
        s.KeepsMemory t) ∧
    (Encodes [0b11101000, e] (.addSpE e) ∧
      ∃ t, exec (.addSpE e) s = .next t ∧ t.cost = 4 ∧ t.regs.sp = sum ∧ t.flags = f ∧ (∀ r, t.reg r = s.reg r) ∧
        t.regs.pc = s.regs.pc ∧ s.KeepsControl t ∧ s.KeepsHidden t ∧ s.KeepsMemory t)

/-- R164: `PUSH qq` decrements `SP` by 2 and stores the low byte at the new `SP`, then the high byte at the new `SP + 1`;
`PUSH AF` pushes `F` with a zero low nibble. -/
def Obligations.PushPair : Prop :=
  ∀ (s : State) (q : PairQ),
    Encodes [byte224 0b11 q.bits 0b0101] (.push q) ∧
    ∃ t l h, exec (.push q) s = .next t ∧ t.cost = 4 ∧ t.regs.sp = s.regs.sp - 2 ∧
      (match q with
        | .bc => h = s.reg .b ∧ l = s.reg .c
        | .de => h = s.reg .d ∧ l = s.reg .e
        | .hl => h = s.reg .h ∧ l = s.reg .l
        | .af => h = s.reg .a ∧ l = s.flags.toByte ∧ l &&& 0x0F = 0x00) ∧
      ((s.writeByte (s.regs.sp - 2) l).Stores (s.regs.sp - 1) h t) ∧
      s.Stores (s.regs.sp - 2) l (s.writeByte (s.regs.sp - 2) l) ∧
      (∀ r, t.reg r = s.reg r) ∧ t.flags = s.flags ∧ t.regs.pc = s.regs.pc ∧ s.KeepsControl t ∧ s.KeepsHidden t

/-- R165: `POP qq` loads the low byte from `SP` and the high byte from `SP + 1` and increments `SP` by 2; `POP AF` writes
all four flags from bits 7 to 4 of the low byte and drops bits 3 to 0. -/
def Obligations.PopPair : Prop :=
  ∀ (s : State) (q : PairQ),
    Encodes [byte224 0b11 q.bits 0b0001] (.pop q) ∧
    ∃ t, exec (.pop q) s = .next t ∧ t.cost = 3 ∧ t.regs.sp = s.regs.sp + 2 ∧
      (let l := s.peek s.regs.sp
       let h := s.peek (s.regs.sp + 1)
       match q with
        | .bc => t.reg .b = h ∧ t.reg .c = l ∧ s.KeepsRegsBut t [.b, .c] ∧ t.flags = s.flags
        | .de => t.reg .d = h ∧ t.reg .e = l ∧ s.KeepsRegsBut t [.d, .e] ∧ t.flags = s.flags
        | .hl => t.reg .h = h ∧ t.reg .l = l ∧ s.KeepsRegsBut t [.h, .l] ∧ t.flags = s.flags
        | .af => t.reg .a = h ∧ t.flags.toByte = l &&& 0xF0 ∧ s.KeepsRegsBut t [.a] ∧
            t.flags = { z := l.getLsbD 7, n := l.getLsbD 6, h := l.getLsbD 5, c := l.getLsbD 4 }) ∧
      t.regs.pc = s.regs.pc ∧ s.KeepsControl t ∧ s.KeepsHidden t ∧
      t.boot = (s.boot && decide (s.regs.sp ≠ 0x0100 ∧ s.regs.sp + 1 ≠ 0x0100)) ∧
      ∀ b, ¬((s.regs.sp = 0x0100 ∨ s.regs.sp + 1 = 0x0100) ∧ s.boot = true ∧ b.toNat < 0x100) → t.peek b = s.peek b

/-! ### 8-bit arithmetic and logic -/

/-- R170, R173 to R178: `ADD` and `ADC`. With `x` the operand and `cin` 0 or the carry flag, the accumulator becomes `A + x
+ cin` modulo 256, and the flags are the laws of `add8`. -/
def Obligations.AddAndAdc : Prop :=
  ∀ (s : State) (r : Reg8) (n : Byte),
    let A := (s.reg .a).toNat
    let sum := fun (t : State) (x cin : Nat) =>
      (t.reg .a).toNat = (A + x + cin) % 256 ∧
      t.flags = { z := decide ((A + x + cin) % 256 = 0), n := false, h := decide (A % 16 + x % 16 + cin > 15)
                  c := decide (A + x + cin > 255) } ∧
      s.OnlyRegsAndFlags t [.a]
    let cin := if s.flags.c then 1 else 0
    let x := s.peek (s.pair .hl)
    (Encodes [byte233 0b10 0b000 r.bits] (.addAR r) ∧
      ∃ t, exec (.addAR r) s = .next t ∧ t.cost = 1 ∧ sum t (s.reg r).toNat 0 ∧ s.KeepsMemory t) ∧
    (Encodes [0b10000110] .addAHl ∧
      ∃ t, exec .addAHl s = .next t ∧ t.cost = 2 ∧ sum t x.toNat 0 ∧ s.KeepsMemoryReading (s.pair .hl) t) ∧
    (Encodes [0b11000110, n] (.addAN n) ∧
      ∃ t, exec (.addAN n) s = .next t ∧ t.cost = 2 ∧ sum t n.toNat 0 ∧ s.KeepsMemory t) ∧
    (Encodes [byte233 0b10 0b001 r.bits] (.adcAR r) ∧
      ∃ t, exec (.adcAR r) s = .next t ∧ t.cost = 1 ∧ sum t (s.reg r).toNat cin ∧ s.KeepsMemory t) ∧
    (Encodes [0b10001110] .adcAHl ∧
      ∃ t, exec .adcAHl s = .next t ∧ t.cost = 2 ∧ sum t x.toNat cin ∧ s.KeepsMemoryReading (s.pair .hl) t) ∧
    (Encodes [0b11001110, n] (.adcAN n) ∧
      ∃ t, exec (.adcAN n) s = .next t ∧ t.cost = 2 ∧ sum t n.toNat cin ∧ s.KeepsMemory t)

/-- R171, R179 to R184: `SUB` and `SBC`. With `x` the operand and `cin` 0 or the carry flag, the accumulator becomes `A - x
- cin` modulo 256, and the flags are the borrows of `sub8`. -/
def Obligations.SubAndSbc : Prop :=
  ∀ (s : State) (r : Reg8) (n : Byte),
    let A := (s.reg .a).toNat
    let diff := fun (t : State) (x cin : Nat) =>
      ((t.reg .a).toNat : Int) = ((A : Int) - x - cin) % 256 ∧
      t.flags = { z := decide (((A : Int) - x - cin) % 256 = 0), n := true, h := decide (A % 16 < x % 16 + cin)
                  c := decide (A < x + cin) } ∧
      s.OnlyRegsAndFlags t [.a]
    let cin := if s.flags.c then 1 else 0
    let x := s.peek (s.pair .hl)
    (Encodes [byte233 0b10 0b010 r.bits] (.subR r) ∧
      ∃ t, exec (.subR r) s = .next t ∧ t.cost = 1 ∧ diff t (s.reg r).toNat 0 ∧ s.KeepsMemory t) ∧
    (Encodes [0b10010110] .subHl ∧
      ∃ t, exec .subHl s = .next t ∧ t.cost = 2 ∧ diff t x.toNat 0 ∧ s.KeepsMemoryReading (s.pair .hl) t) ∧
    (Encodes [0b11010110, n] (.subN n) ∧
      ∃ t, exec (.subN n) s = .next t ∧ t.cost = 2 ∧ diff t n.toNat 0 ∧ s.KeepsMemory t) ∧
    (Encodes [byte233 0b10 0b011 r.bits] (.sbcAR r) ∧
      ∃ t, exec (.sbcAR r) s = .next t ∧ t.cost = 1 ∧ diff t (s.reg r).toNat cin ∧ s.KeepsMemory t) ∧
    (Encodes [0b10011110] .sbcAHl ∧
      ∃ t, exec .sbcAHl s = .next t ∧ t.cost = 2 ∧ diff t x.toNat cin ∧ s.KeepsMemoryReading (s.pair .hl) t) ∧
    (Encodes [0b11011110, n] (.sbcAN n) ∧
      ∃ t, exec (.sbcAN n) s = .next t ∧ t.cost = 2 ∧ diff t n.toNat cin ∧ s.KeepsMemory t)

/-- R194 to R196: `CP` sets the flags of the subtraction and writes no general register: `Z` if equal, `C` if `A` is below.
-/
def Obligations.CompareOperations : Prop :=
  ∀ (s : State) (r : Reg8) (n : Byte),
    let A := (s.reg .a).toNat
    let cmp := fun (t : State) (x : Nat) =>
      t.flags = { z := decide (A = x), n := true, h := decide (A % 16 < x % 16), c := decide (A < x) } ∧
      s.OnlyRegsAndFlags t []
    (Encodes [byte233 0b10 0b111 r.bits] (.cpR r) ∧
      ∃ t, exec (.cpR r) s = .next t ∧ t.cost = 1 ∧ cmp t (s.reg r).toNat ∧ s.KeepsMemory t) ∧
    (Encodes [0b10111110] .cpHl ∧
      ∃ t, exec .cpHl s = .next t ∧ t.cost = 2 ∧ cmp t (s.peek (s.pair .hl)).toNat ∧ s.KeepsMemoryReading (s.pair .hl) t) ∧
    (Encodes [0b11111110, n] (.cpN n) ∧
      ∃ t, exec (.cpN n) s = .next t ∧ t.cost = 2 ∧ cmp t n.toNat ∧ s.KeepsMemory t)

/-- R172, R185 to R193: `AND`, `XOR`, `OR`: `Z` from the result, `N` and `C` cleared, `H` set by `AND` only. -/
def Obligations.LogicOperations : Prop :=
  ∀ (s : State) (r : Reg8) (n : Byte),
    let A := s.reg .a
    let x := s.peek (s.pair .hl)
    let logic := fun (t : State) (res : Byte) (h : Bool) =>
      t.reg .a = res ∧ t.flags = { z := decide (res = 0), n := false, h := h, c := false } ∧ s.OnlyRegsAndFlags t [.a]
    (Encodes [byte233 0b10 0b100 r.bits] (.andR r) ∧
      ∃ t, exec (.andR r) s = .next t ∧ t.cost = 1 ∧ logic t (A &&& s.reg r) true ∧ s.KeepsMemory t) ∧
    (Encodes [0b10100110] .andHl ∧
      ∃ t, exec .andHl s = .next t ∧ t.cost = 2 ∧ logic t (A &&& x) true ∧ s.KeepsMemoryReading (s.pair .hl) t) ∧
    (Encodes [0b11100110, n] (.andN n) ∧
      ∃ t, exec (.andN n) s = .next t ∧ t.cost = 2 ∧ logic t (A &&& n) true ∧ s.KeepsMemory t) ∧
    (Encodes [byte233 0b10 0b101 r.bits] (.xorR r) ∧
      ∃ t, exec (.xorR r) s = .next t ∧ t.cost = 1 ∧ logic t (A ^^^ s.reg r) false ∧ s.KeepsMemory t) ∧
    (Encodes [0b10101110] .xorHl ∧
      ∃ t, exec .xorHl s = .next t ∧ t.cost = 2 ∧ logic t (A ^^^ x) false ∧ s.KeepsMemoryReading (s.pair .hl) t) ∧
    (Encodes [0b11101110, n] (.xorN n) ∧
      ∃ t, exec (.xorN n) s = .next t ∧ t.cost = 2 ∧ logic t (A ^^^ n) false ∧ s.KeepsMemory t) ∧
    (Encodes [byte233 0b10 0b110 r.bits] (.orR r) ∧
      ∃ t, exec (.orR r) s = .next t ∧ t.cost = 1 ∧ logic t (A ||| s.reg r) false ∧ s.KeepsMemory t) ∧
    (Encodes [0b10110110] .orHl ∧
      ∃ t, exec .orHl s = .next t ∧ t.cost = 2 ∧ logic t (A ||| x) false ∧ s.KeepsMemoryReading (s.pair .hl) t) ∧
    (Encodes [0b11110110, n] (.orN n) ∧
      ∃ t, exec (.orN n) s = .next t ∧ t.cost = 2 ∧ logic t (A ||| n) false ∧ s.KeepsMemory t)

/-- R197 to R200: `INC` and `DEC` of a register and of the byte at `HL`; the carry flag is not written. In the `(HL)` forms
the flags follow the value computed even where the write is discarded. -/
def Obligations.IncrementAndDecrement : Prop :=
  ∀ (s : State) (r : Reg8),
    let v := s.reg r
    let m := s.peek (s.pair .hl)
    let up := fun (x : Byte) =>
      ({ z := decide (x.toNat = 255), n := false, h := decide (x.toNat % 16 = 15), c := s.flags.c } : Flags)
    let down := fun (x : Byte) =>
      ({ z := decide (x.toNat = 1), n := true, h := decide (x.toNat % 16 = 0), c := s.flags.c } : Flags)
    (Encodes [byte233 0b00 r.bits 0b100] (.incR r) ∧
      ∃ t, exec (.incR r) s = .next t ∧ t.cost = 1 ∧ (t.reg r).toNat = (v.toNat + 1) % 256 ∧ t.flags = up v ∧
        s.OnlyRegsAndFlags t [r] ∧ s.KeepsMemory t) ∧
    (Encodes [byte233 0b00 r.bits 0b101] (.decR r) ∧
      ∃ t, exec (.decR r) s = .next t ∧ t.cost = 1 ∧ (t.reg r).toNat = (v.toNat + 255) % 256 ∧ t.flags = down v ∧
        s.OnlyRegsAndFlags t [r] ∧ s.KeepsMemory t) ∧
    (Encodes [0b00110100] .incHl ∧
      ∃ t, exec .incHl s = .next t ∧ t.cost = 3 ∧
        ((s.readByte (s.pair .hl)).2.Stores (s.pair .hl) (BitVec.ofNat 8 (m.toNat + 1)) t) ∧ t.flags = up m ∧
        s.OnlyRegsAndFlags t []) ∧
    (Encodes [0b00110101] .decHl ∧
      ∃ t, exec .decHl s = .next t ∧ t.cost = 3 ∧
        ((s.readByte (s.pair .hl)).2.Stores (s.pair .hl) (BitVec.ofNat 8 (m.toNat + 255)) t) ∧ t.flags = down m ∧
        s.OnlyRegsAndFlags t [])

/-- R201: `DAA`, in the numbers of the rule: the adjustment is chosen from the flags and the accumulator as they stand
before it. -/
def Obligations.DecimalAdjust : Prop :=
  ∀ s : State,
    let A := (s.reg .a).toNat
    let f := s.flags
    let low := if f.h = true ∨ (f.n = false ∧ A % 16 > 9) then 0x06 else 0
    let high := if f.c = true ∨ (f.n = false ∧ A > 0x99) then 0x60 else 0
    let res := if f.n then (A + 256 - (low + high)) % 256 else (A + low + high) % 256
    Encodes [0b00100111] .daa ∧
    ∃ t, exec .daa s = .next t ∧ t.cost = 1 ∧ (t.reg .a).toNat = res ∧
      t.flags = { z := decide (res = 0), n := f.n, h := false, c := f.c || (!f.n && decide (A > 0x99)) } ∧
      s.OnlyRegsAndFlags t [.a] ∧ s.KeepsMemory t

/-- R201, R391: `DAA` directly after `ADD A,n` or `ADC A,n` of two packed-BCD bytes leaves their packed-BCD sum and the
decimal carry, and after `SUB n` or `SBC A,n` their difference and the decimal borrow. -/
def Obligations.DecimalArithmetic : Prop :=
  ∀ (s : State) (x y : Nat), x < 100 → y < 100 → (s.reg .a).toNat = 16 * (x / 10) + x % 10 →
    let n : Byte := BitVec.ofNat 8 (16 * (y / 10) + y % 10)
    let cin := if s.flags.c then 1 else 0
    let bcd := fun (t : State) (z : Nat) (c : Bool) =>
      (t.reg .a).toNat = 16 * (z / 10) + z % 10 ∧ t.flags.c = c ∧ t.flags.z = decide (z = 0) ∧ t.flags.h = false
    (∃ t u, exec (.addAN n) s = .next t ∧ exec .daa t = .next u ∧ bcd u ((x + y) % 100) (decide (x + y ≥ 100))) ∧
    (∃ t u, exec (.adcAN n) s = .next t ∧ exec .daa t = .next u ∧ bcd u ((x + y + cin) % 100) (decide (x + y + cin ≥ 100))) ∧
    (∃ t u, exec (.subN n) s = .next t ∧ exec .daa t = .next u ∧ bcd u ((x + 100 - y) % 100) (decide (x < y))) ∧
    (∃ t u, exec (.sbcAN n) s = .next t ∧ exec .daa t = .next u ∧
      bcd u ((x + 100 - y + 100 - cin) % 100) (decide (x < y + cin)))

/-- R202, R203, R204: `CPL`, `SCF`, `CCF`; the zero flag is not written, nor the carry flag by `CPL`. -/
def Obligations.ComplementAndCarry : Prop :=
  ∀ s : State,
    (Encodes [0b00101111] .cpl ∧
      ∃ t, exec .cpl s = .next t ∧ t.cost = 1 ∧ (t.reg .a).toNat = 255 - (s.reg .a).toNat ∧
        t.flags = { z := s.flags.z, n := true, h := true, c := s.flags.c } ∧ s.OnlyRegsAndFlags t [.a] ∧ s.KeepsMemory t) ∧
    (Encodes [0b00110111] .scf ∧
      ∃ t, exec .scf s = .next t ∧ t.cost = 1 ∧ t.flags = { z := s.flags.z, n := false, h := false, c := true } ∧
        s.OnlyRegsAndFlags t [] ∧ s.KeepsMemory t) ∧
    (Encodes [0b00111111] .ccf ∧
      ∃ t, exec .ccf s = .next t ∧ t.cost = 1 ∧ t.flags = { z := s.flags.z, n := false, h := false, c := !s.flags.c } ∧
        s.OnlyRegsAndFlags t [] ∧ s.KeepsMemory t)

/-! ### 16-bit arithmetic -/

/-- R220: `ADD HL,rr`: the sum modulo 2^16, `N` cleared, `H` and `C` the carries out of bits 11 and 15, `Z` not written. -/
def Obligations.AddToHl : Prop :=
  ∀ (s : State) (p : Pair),
    let a := (s.pair .hl).toNat
    let b := (s.pair p).toNat
    Encodes [byte224 0b00 p.bits 0b1001] (.addHlRr p) ∧
    ∃ t, exec (.addHlRr p) s = .next t ∧ t.cost = 2 ∧ (t.pair .hl).toNat = (a + b) % 65536 ∧
      t.flags = { z := s.flags.z, n := false, h := decide (a % 4096 + b % 4096 > 4095), c := decide (a + b > 65535) } ∧
      s.OnlyRegsAndFlags t [.h, .l] ∧ s.KeepsMemory t

/-- R221, R222: `INC rr` and `DEC rr` modulo 2^16; no flag is written. -/
def Obligations.IncrementAndDecrementPair : Prop :=
  ∀ (s : State) (p : Pair),
    (Encodes [byte224 0b00 p.bits 0b0011] (.incRr p) ∧
      ∃ t, exec (.incRr p) s = .next t ∧ t.cost = 2 ∧ (t.pair p).toNat = ((s.pair p).toNat + 1) % 65536 ∧
        s.KeepsRegsBut t p.halves ∧ (p ≠ .sp → t.regs.sp = s.regs.sp) ∧ t.regs.pc = s.regs.pc ∧ t.flags = s.flags ∧
        s.KeepsControl t ∧ s.KeepsHidden t ∧ s.KeepsMemory t) ∧
    (Encodes [byte224 0b00 p.bits 0b1011] (.decRr p) ∧
      ∃ t, exec (.decRr p) s = .next t ∧ t.cost = 2 ∧ (t.pair p).toNat = ((s.pair p).toNat + 65535) % 65536 ∧
        s.KeepsRegsBut t p.halves ∧ (p ≠ .sp → t.regs.sp = s.regs.sp) ∧ t.regs.pc = s.regs.pc ∧ t.flags = s.flags ∧
        s.KeepsControl t ∧ s.KeepsHidden t ∧ s.KeepsMemory t)

/-! ### Rotates, shifts and bits -/

/-- R230 to R233: `RLCA`, `RLA`, `RRCA`, `RRA`; `Z` is cleared whatever the result. -/
def Obligations.AccumulatorRotates : Prop :=
  ∀ s : State,
    let A := (s.reg .a).toNat
    let c := if s.flags.c then 1 else 0
    let rotate := fun (t : State) (res out : Nat) =>
      (t.reg .a).toNat = res ∧ t.flags = { z := false, n := false, h := false, c := decide (out = 1) } ∧
      s.OnlyRegsAndFlags t [.a] ∧ s.KeepsMemory t
    (Encodes [0b00000111] .rlca ∧
      ∃ t, exec .rlca s = .next t ∧ t.cost = 1 ∧ rotate t (2 * A % 256 + A / 128) (A / 128)) ∧
    (Encodes [0b00010111] .rla ∧
      ∃ t, exec .rla s = .next t ∧ t.cost = 1 ∧ rotate t (2 * A % 256 + c) (A / 128)) ∧
    (Encodes [0b00001111] .rrca ∧
      ∃ t, exec .rrca s = .next t ∧ t.cost = 1 ∧ rotate t (A / 2 + 128 * (A % 2)) (A % 2)) ∧
    (Encodes [0b00011111] .rra ∧
      ∃ t, exec .rra s = .next t ∧ t.cost = 1 ∧ rotate t (A / 2 + 128 * c) (A % 2))

/-- R234, R235, R237, R239, R241, R243, R245, R247, R249: the rotates, the shifts and `SWAP` of a register: the result and the
bit shifted out that R234 gives, `Z` from the result, `N` and `H` cleared, `C` the bit shifted out. -/
def Obligations.ShiftRegister : Prop :=
  ∀ (s : State) (r : Reg8),
    let v := (s.reg r).toNat
    let c := if s.flags.c then 1 else 0
    let shift := fun (i : Instr) (op : BitVec 3) (res out : Nat) =>
      Encodes [0xCB, byte233 0b00 op r.bits] i ∧
      ∃ t, exec i s = .next t ∧ t.cost = 2 ∧ (t.reg r).toNat = res ∧
        t.flags = { z := decide (res = 0), n := false, h := false, c := decide (out = 1) } ∧
        s.OnlyRegsAndFlags t [r] ∧ s.KeepsMemory t
    shift (.rlcR r) 0b000 (2 * v % 256 + v / 128) (v / 128) ∧
    shift (.rrcR r) 0b001 (v / 2 + 128 * (v % 2)) (v % 2) ∧
    shift (.rlR r) 0b010 (2 * v % 256 + c) (v / 128) ∧
    shift (.rrR r) 0b011 (v / 2 + 128 * c) (v % 2) ∧
    shift (.slaR r) 0b100 (2 * v % 256) (v / 128) ∧
    shift (.sraR r) 0b101 (v / 2 + 128 * (v / 128)) (v % 2) ∧
    shift (.swapR r) 0b110 (16 * (v % 16) + v / 16) 0 ∧
    shift (.srlR r) 0b111 (v / 2) (v % 2)

/-- R234 and the `(HL)` forms R236, R238, R240, R242, R244, R246, R248, R250: one read, then one write to the same address;
the flags follow the result as computed. -/
def Obligations.ShiftMemory : Prop :=
  ∀ s : State,
    let v := (s.peek (s.pair .hl)).toNat
    let c := if s.flags.c then 1 else 0
    let shift := fun (i : Instr) (op : BitVec 3) (res out : Nat) =>
      Encodes [0xCB, byte233 0b00 op 0b110] i ∧
      ∃ t, exec i s = .next t ∧ t.cost = 4 ∧
        ((s.readByte (s.pair .hl)).2.Stores (s.pair .hl) (BitVec.ofNat 8 res) t) ∧
        t.flags = { z := decide (res = 0), n := false, h := false, c := decide (out = 1) } ∧ s.OnlyRegsAndFlags t []
    shift .rlcHl 0b000 (2 * v % 256 + v / 128) (v / 128) ∧
    shift .rrcHl 0b001 (v / 2 + 128 * (v % 2)) (v % 2) ∧
    shift .rlHl 0b010 (2 * v % 256 + c) (v / 128) ∧
    shift .rrHl 0b011 (v / 2 + 128 * c) (v % 2) ∧
    shift .slaHl 0b100 (2 * v % 256) (v / 128) ∧
    shift .sraHl 0b101 (v / 2 + 128 * (v / 128)) (v % 2) ∧
    shift .swapHl 0b110 (16 * (v % 16) + v / 16) 0 ∧
    shift .srlHl 0b111 (v / 2) (v % 2)

/-- R251 to R256: `BIT` sets `Z` from the tested bit, clears `N`, sets `H` and leaves `C`; `RES` and `SET` change one bit
and no flag; the `(HL)` forms of `RES` and `SET` write even an unchanged value. -/
def Obligations.BitInstructions : Prop :=
  ∀ (s : State) (b : Fin 8) (r : Reg8),
    let m := s.peek (s.pair .hl)
    let testFlags := fun (v : Byte) =>
      ({ z := decide (v.toNat / 2 ^ b.val % 2 = 0), n := false, h := true, c := s.flags.c } : Flags)
    let cleared := fun (v w : Byte) => ∀ k, k < 8 → w.getLsbD k = (v.getLsbD k && decide (k ≠ b.val))
    let set := fun (v w : Byte) => ∀ k, k < 8 → w.getLsbD k = (v.getLsbD k || decide (k = b.val))
    (Encodes [0xCB, byte233 0b01 (idxBits b) r.bits] (.bitBR b r) ∧
      ∃ t, exec (.bitBR b r) s = .next t ∧ t.cost = 2 ∧ t.flags = testFlags (s.reg r) ∧ s.OnlyRegsAndFlags t [] ∧
        s.KeepsMemory t) ∧
    (Encodes [0xCB, byte233 0b01 (idxBits b) 0b110] (.bitBHl b) ∧
      ∃ t, exec (.bitBHl b) s = .next t ∧ t.cost = 3 ∧ t.flags = testFlags m ∧ s.OnlyRegsAndFlags t [] ∧
        s.KeepsMemoryReading (s.pair .hl) t) ∧
    (Encodes [0xCB, byte233 0b10 (idxBits b) r.bits] (.resBR b r) ∧
      ∃ t, exec (.resBR b r) s = .next t ∧ t.cost = 2 ∧ cleared (s.reg r) (t.reg r) ∧ s.OnlyRegs t [r] ∧ s.KeepsMemory t) ∧
    (Encodes [0xCB, byte233 0b10 (idxBits b) 0b110] (.resBHl b) ∧
      ∃ t w, exec (.resBHl b) s = .next t ∧ t.cost = 4 ∧ cleared m w ∧
        ((s.readByte (s.pair .hl)).2.Stores (s.pair .hl) w t) ∧ s.OnlyRegs t []) ∧
    (Encodes [0xCB, byte233 0b11 (idxBits b) r.bits] (.setBR b r) ∧
      ∃ t, exec (.setBR b r) s = .next t ∧ t.cost = 2 ∧ set (s.reg r) (t.reg r) ∧ s.OnlyRegs t [r] ∧ s.KeepsMemory t) ∧
    (Encodes [0xCB, byte233 0b11 (idxBits b) 0b110] (.setBHl b) ∧
      ∃ t w, exec (.setBHl b) s = .next t ∧ t.cost = 4 ∧ set m w ∧
        ((s.readByte (s.pair .hl)).2.Stores (s.pair .hl) w t) ∧ s.OnlyRegs t [])

/-! ### Control transfers -/

/-- R270 to R275: the jumps. `PC` at the start of the meaning is the address of the next instruction; a displacement is a
signed byte added to it modulo 2^16; a condition reads the flags as they stand. -/
def Obligations.JumpInstructions : Prop :=
  ∀ (s : State) (cc : Cond) (nn : Word) (e : Byte),
    let taken :=
      match cc with | .nz => s.flags.z = false | .z => s.flags.z = true | .nc => s.flags.c = false | .c => s.flags.c = true
    let target : Word := BitVec.ofInt 16 (s.regs.pc.toNat + e.toInt)
    let goes := fun (t : State) (a : Word) =>
      t.regs.pc = a ∧ (∀ r, t.reg r = s.reg r) ∧ t.flags = s.flags ∧ t.regs.sp = s.regs.sp ∧ s.KeepsControl t ∧
      s.KeepsHidden t ∧ s.KeepsMemory t
    (Encodes [0b11000011, nn.setWidth 8, (nn >>> 8).setWidth 8] (.jpNn nn) ∧
      ∃ t, exec (.jpNn nn) s = .next t ∧ t.cost = 4 ∧ goes t nn) ∧
    (Encodes [byte323 0b110 cc.bits 0b010, nn.setWidth 8, (nn >>> 8).setWidth 8] (.jpCcNn cc nn) ∧
      ∃ t, exec (.jpCcNn cc nn) s = .next t ∧ (taken → t.cost = 4 ∧ goes t nn) ∧ (¬taken → t.cost = 3 ∧ goes t s.regs.pc)) ∧
    (Encodes [0b11101001] .jpHl ∧ ∃ t, exec .jpHl s = .next t ∧ t.cost = 1 ∧ goes t (s.pair .hl)) ∧
    (Encodes [0b00011000, e] (.jrE e) ∧ ∃ t, exec (.jrE e) s = .next t ∧ t.cost = 3 ∧ goes t target) ∧
    (Encodes [byte323 0b001 cc.bits 0b000, e] (.jrCcE cc e) ∧
      ∃ t, exec (.jrCcE cc e) s = .next t ∧ (taken → t.cost = 3 ∧ goes t target) ∧ (¬taken → t.cost = 2 ∧ goes t s.regs.pc))

/-- R276, R277, R281: the calls. `PC`, the address of the next instruction, is pushed: the low byte at the new `SP`, then
the high byte at the new `SP + 1`; the targets of `RST` are `8 * t`. -/
def Obligations.CallInstructions : Prop :=
  ∀ (s : State) (cc : Cond) (nn : Word) (k : Fin 8),
    let taken :=
      match cc with | .nz => s.flags.z = false | .z => s.flags.z = true | .nc => s.flags.c = false | .c => s.flags.c = true
    let call := fun (t : State) (a : Word) =>
      t.regs.pc = a ∧ t.regs.sp = s.regs.sp - 2 ∧
      ((s.writeByte (s.regs.sp - 2) (s.regs.pc.setWidth 8)).Stores (s.regs.sp - 1) ((s.regs.pc >>> 8).setWidth 8) t) ∧
      s.Stores (s.regs.sp - 2) (s.regs.pc.setWidth 8) (s.writeByte (s.regs.sp - 2) (s.regs.pc.setWidth 8)) ∧
      (∀ r, t.reg r = s.reg r) ∧ t.flags = s.flags ∧ s.KeepsControl t ∧ s.KeepsHidden t
    (Encodes [0b11001101, nn.setWidth 8, (nn >>> 8).setWidth 8] (.callNn nn) ∧
      ∃ t, exec (.callNn nn) s = .next t ∧ t.cost = 6 ∧ call t nn) ∧
    (Encodes [byte323 0b110 cc.bits 0b100, nn.setWidth 8, (nn >>> 8).setWidth 8] (.callCcNn cc nn) ∧
      ∃ t, exec (.callCcNn cc nn) s = .next t ∧ (taken → t.cost = 6 ∧ call t nn) ∧
        (¬taken → t.cost = 3 ∧ s.OnlyRegs t [] ∧ s.KeepsMemory t)) ∧
    (Encodes [byte233 0b11 (idxBits k) 0b111] (.rst k) ∧
      ∃ t, exec (.rst k) s = .next t ∧ t.cost = 4 ∧ call t (BitVec.ofNat 16 (8 * k.val)))

/-- R278, R279, R280: the returns. The word at `SP` becomes `PC` and `SP` is incremented by 2; `RETI` also sets `IME`, at
once. -/
def Obligations.ReturnInstructions : Prop :=
  ∀ (s : State) (cc : Cond),
    let taken :=
      match cc with | .nz => s.flags.z = false | .z => s.flags.z = true | .nc => s.flags.c = false | .c => s.flags.c = true
    let back := fun (t : State) (ime : Bool) =>
      t.regs.pc = BitVec.ofNat 16 (256 * (s.peek (s.regs.sp + 1)).toNat + (s.peek s.regs.sp).toNat) ∧
      t.regs.sp = s.regs.sp + 2 ∧ t.ime = ime ∧ t.halted = s.halted ∧ t.diags = s.diags ∧ (∀ r, t.reg r = s.reg r) ∧
      t.flags = s.flags ∧ s.KeepsHidden t ∧
      t.boot = (s.boot && decide (s.regs.sp ≠ 0x0100 ∧ s.regs.sp + 1 ≠ 0x0100)) ∧
      ∀ b, ¬((s.regs.sp = 0x0100 ∨ s.regs.sp + 1 = 0x0100) ∧ s.boot = true ∧ b.toNat < 0x100) → t.peek b = s.peek b
    (Encodes [0b11001001] .ret ∧ ∃ t, exec .ret s = .next t ∧ t.cost = 4 ∧ back t s.ime) ∧
    (Encodes [byte323 0b110 cc.bits 0b000] (.retCc cc) ∧
      ∃ t, exec (.retCc cc) s = .next t ∧ (taken → t.cost = 5 ∧ back t s.ime) ∧
        (¬taken → t.cost = 2 ∧ s.OnlyRegs t [] ∧ s.KeepsMemory t)) ∧
    (Encodes [0b11011001] .reti ∧ ∃ t, exec .reti s = .next t ∧ t.cost = 4 ∧ back t true)

/-! ### System instructions -/

/-- R290 to R294: `NOP`, `HALT`, `STOP`, `DI`, `EI`. -/
def Obligations.SystemInstructions : Prop :=
  ∀ s : State,
    let latches := fun (t : State) (ime halted : Bool) =>
      t.ime = ime ∧ t.halted = halted ∧ t.diags = s.diags ∧ s.KeepsRegs t ∧ s.KeepsHidden t ∧ s.KeepsMemory t
    (Encodes [0b00000000] .nop ∧ ∃ t, exec .nop s = .next t ∧ t.cost = 1 ∧ latches t s.ime s.halted) ∧
    (Encodes [0b01110110] .halt ∧ ∃ t, exec .halt s = .next t ∧ t.cost = 1 ∧ latches t s.ime true) ∧
    (Encodes [0b00010000] .stop ∧ ∃ t, exec .stop s = .next t ∧ t.cost = 1 ∧ latches t s.ime s.halted) ∧
    (Encodes [0b11110011] .di ∧ ∃ t, exec .di s = .next t ∧ t.cost = 1 ∧ latches t false s.halted) ∧
    (Encodes [0b11111011] .ei ∧ ∃ t, exec .ei s = .next t ∧ t.cost = 1 ∧ latches t true s.halted)

/-- R116, R296: each of the eleven undefined bytes, and no other byte of the base page, decodes to an instruction that
appends one diagnostic record with the address it was fetched from and the byte, costs 0 units and changes nothing else. -/
def Obligations.UndefinedOpcodes : Prop :=
  ∀ (s : State) (o : Byte),
    let undefined : List (Byte × Instr) :=
      [(0xD3, .undefD3), (0xDB, .undefDB), (0xDD, .undefDD), (0xE3, .undefE3), (0xE4, .undefE4), (0xEB, .undefEB),
       (0xEC, .undefEC), (0xED, .undefED), (0xF4, .undefF4), (0xFC, .undefFC), (0xFD, .undefFD)]
    (∀ i, (o, i) ∈ undefined →
      Encodes [o] i ∧
      ∃ t, exec i s = .next t ∧ t.cost = 0 ∧
        t.diags = s.diags ++ [{ kind := .unimplementedOpcode, addr := s.regs.pc - 1, byte := o }] ∧
        t.ime = s.ime ∧ t.halted = s.halted ∧ s.KeepsRegs t ∧ s.KeepsHidden t ∧ s.KeepsMemory t) ∧
    ∀ i rest rest', decode (o :: rest) = .ok (i, rest') → (i ∈ undefined.map Prod.snd ↔ o ∈ undefined.map Prod.fst)

/-! ### The timer -/

/-- R331 to R335: `c` units are counted one after another, 0 units change nothing. One unit moves the sub-counter and, on
every 16th, `DIV`, whatever `TAC` says; with the timer enabled it moves `tacc`, from any value of it, and where `tacc` reaches or
exceeds the threshold of the clock-select, as it can at once after a switch to a smaller one, `tacc` becomes 0 and `TIMA` grows by
one or, at 0xFF, is reloaded from `TMA` with the timer interrupt raised; disabled, `TIMA` and `tacc` are frozen. So every 16 units
increment `DIV` and leave the sub-counter where it was; with the timer enabled and `tacc` 0, `TIMA` has grown by one for every
threshold's worth of units until the unit numbered `(256 - TIMA) * T`, at which it overflows, and not before. Nothing but `DIV`,
`TIMA`, the two accumulators and `IF` changes. -/
def Obligations.TimerCounts : Prop :=
  ∀ s : State, s.TimerInv →
    (∀ n, let t := s.timerTick n
      t = { s with
            timer := { s.timer with div := t.timer.div, tima := t.timer.tima, tsub := t.timer.tsub, tacc := t.timer.tacc }
            iflag := t.iflag }) ∧
    s.timerTick 0 = s ∧ (∀ n, s.timerTick (n + 1) = (s.timerTick n).timerTick 1) ∧
    (let t := s.timerTick 1
     t.timer.tsub = (if s.timer.tsub = 15 then 0 else s.timer.tsub + 1) ∧
     t.timer.div = (if s.timer.tsub = 15 then s.timer.div + 1 else s.timer.div)) ∧
    (s.timer.tac.getLsbD 2 = true →
      let T := match (s.timer.tac.setWidth 2).toNat with | 0 => 64 | 1 => 1 | 2 => 4 | _ => 16
      let t := s.timerTick 1
      (s.timer.tacc + 1 < T → t.timer.tacc = s.timer.tacc + 1 ∧ t.timer.tima = s.timer.tima ∧ t.iflag = s.iflag) ∧
      (s.timer.tacc + 1 ≥ T →
        t.timer.tacc = 0 ∧
        if s.timer.tima = 0xFF then t.timer.tima = s.timer.tma ∧ t.iflag = s.iflag ||| 0x04
        else t.timer.tima = s.timer.tima + 1 ∧ t.iflag = s.iflag)) ∧
    (let t := s.timerTick 16
     t.timer.div = s.timer.div + 1 ∧ t.timer.tsub = s.timer.tsub) ∧
    (s.timer.tac.getLsbD 2 = false → ∀ n, (s.timerTick n).timer.tima = s.timer.tima ∧
      (s.timerTick n).timer.tacc = s.timer.tacc ∧ (s.timerTick n).iflag = s.iflag) ∧
    (s.timer.tac.getLsbD 2 = true → s.timer.tacc = 0 →
      let T := match (s.timer.tac.setWidth 2).toNat with | 0 => 64 | 1 => 1 | 2 => 4 | _ => 16
      (∀ n, n < (256 - s.timer.tima.toNat) * T →
        (s.timerTick n).timer.tima.toNat = s.timer.tima.toNat + n / T ∧ (s.timerTick n).iflag = s.iflag) ∧
      (let t := s.timerTick ((256 - s.timer.tima.toNat) * T)
       t.timer.tima = s.timer.tma ∧ t.timer.tacc = 0 ∧ t.iflag = s.iflag ||| 0x04))

/-! ### The picture generator -/

/-- R341 to R345, R348, R350: `PPU.Advance(c)` makes at most one transition, drops what exceeds the threshold, renders the
line on leaving `PIXEL_TRANSFER`, and raises exactly the interrupts of the mode entered and of the line compare, which runs
at every transition and is not gated by `STAT[6]` (D30); it changes nothing but `mode`, `LY`, `pcnt`, the pixel buffer and
`IF`. -/
def Obligations.PictureTransitions : Prop :=
  ∀ (s : State) (c : Nat), s.PpuInv →
    let t := s.ppuAdvance c
    let lyc := if t.ppu.ly = s.ppu.lyc then 0x02 else 0x00
    let source := fun (b : Bool) => if b then (0x02 : Byte) else 0x00
    let limit := match s.ppu.mode with | .oamScan => 20 | .pixelTransfer => 43 | .hblank => 51 | .vblank => 126
    (s.ppu.pcnt + c < limit → t = { s with ppu := { s.ppu with pcnt := s.ppu.pcnt + c } }) ∧
    (s.ppu.pcnt + c ≥ limit →
      t.ppu.pcnt = 0 ∧
      t = { s with
            ppu := { s.ppu with mode := t.ppu.mode, ly := t.ppu.ly, pcnt := t.ppu.pcnt, pix := t.ppu.pix }
            iflag := t.iflag } ∧
      match s.ppu.mode with
      | .oamScan => t.ppu.mode = .pixelTransfer ∧ t.ppu.ly = s.ppu.ly ∧ t.iflag = s.iflag ||| lyc ∧ t.ppu.pix = s.ppu.pix
      | .pixelTransfer =>
        t.ppu.mode = .hblank ∧ t.ppu.ly = s.ppu.ly ∧ t.iflag = s.iflag ||| source (s.ppu.stat.getLsbD 0) ||| lyc ∧
        t.ppu.pix = s.ppu.pix.setRow s.ppu.ly.toNat (s.lineOf s.ppu.ly.toNat)
      | .hblank =>
        t.ppu.ly = s.ppu.ly + 1 ∧ t.ppu.pix = s.ppu.pix ∧
        if s.ppu.ly = 143 then
          t.ppu.mode = .vblank ∧ t.iflag = s.iflag ||| 0x01 ||| source (s.ppu.stat.getLsbD 1) ||| lyc
        else t.ppu.mode = .oamScan ∧ t.iflag = s.iflag ||| source (s.ppu.stat.getLsbD 2) ||| lyc
      | .vblank =>
        t.ppu.pix = s.ppu.pix ∧
        if s.ppu.ly = 153 then
          t.ppu.ly = 0 ∧ t.ppu.mode = .oamScan ∧ t.iflag = s.iflag ||| source (s.ppu.stat.getLsbD 2) ||| lyc
        else t.ppu.ly = s.ppu.ly + 1 ∧ t.ppu.mode = .vblank ∧ t.iflag = s.iflag ||| lyc)

/-- R347: from the start of line 0 (`OAM_SCAN`, `pcnt` 0), after 114 one-unit advances the machine is in `OAM_SCAN` at the start
of line 1, and so on line by line; after 144 such lines it enters `VBLANK`, on line 144, and the vblank interrupt bit is set. -/
def Obligations.PictureFrame : Prop :=
  ∀ s : State, s.ppu.mode = .oamScan → s.ppu.ly = 0 → s.ppu.pcnt = 0 →
    (∀ k : Nat, k < 144 →
      let t := (State.ppuAdvance 1)^[(20 + 43 + 51) * k] s
      t.ppu.mode = .oamScan ∧ t.ppu.ly.toNat = k ∧ t.ppu.pcnt = 0) ∧
    ∀ k : Nat, k = 144 →
      let t := (State.ppuAdvance 1)^[(20 + 43 + 51) * k] s
      t.ppu.mode = .vblank ∧ t.ppu.ly = 144 ∧ t.ppu.pcnt = 0 ∧ t.iflag.getLsbD 0 = true

/-- R356, R360, R361: a render writes the 160 cells of its own line of the pixel buffer and nothing else. Its sprites are the
first ten entries of the object attribute memory, in ascending slot, that cover the line, those and no others; they are drawn in
the order of descending `X` and, among equal `X`, descending slot. An entry is its four bytes as the bus reads them. -/
def Obligations.RenderLine : Prop :=
  ∀ (s : State) (y : Nat), s.ppu.pix.wf → y < 144 →
    let t := s.renderLine y
    t = { s with ppu := { s.ppu with pix := t.ppu.pix } } ∧ t.ppu.pix.wf ∧ (t.ppu.pix.row y).length = 160 ∧
    (∀ y', y' ≠ y → t.ppu.pix.row y' = s.ppu.pix.row y') ∧
    (s.ppu.lcdc.getLsbD 1 = false → ∀ x, x < 160 → t.ppu.pix.cell y x = shade s.ppu.bgp (s.bgIndex y x)) ∧
    (s.spritesOf y).length ≤ 10 ∧
    (s.spritesOf y).Pairwise (fun o o' => o.x > o'.x ∨ (o.x = o'.x ∧ o.slot > o'.slot)) ∧
    (∀ k, k < 40 → (s.sprite k ∈ s.spritesOf y ↔ s.Selected y k)) ∧
    (∀ o ∈ s.spritesOf y, ∃ k, s.Selected y k ∧ o = s.sprite k) ∧
    ∀ k : Nat, k < 40 →
      let b := fun i : Nat => s.peek (0xFE00 + BitVec.ofNat 16 (4 * k + i))
      s.sprite k =
        { slot := k, y := (b 0).toNat - 16, x := (b 1).toNat - 8, tile := b 2, attr := b 3 }

/-- R361, R362: with sprites enabled, a pixel that no sprite selected for the line (the first ten entries in ascending slot
that cover it) covers with a visible colour shows the background; otherwise it shows the colour of the selected sprite with the
smallest `X` and, among equal `X`, the smallest slot, of those that cover the pixel with a visible colour. A colour is visible
if its index is not 0 and the sprite is not behind the background or the background index there is 0. -/
def Obligations.SpritePixels : Prop :=
  ∀ (s : State) (y x : Nat), s.ppu.pix.wf → y < 144 → x < 160 → s.ppu.lcdc.getLsbD 1 = true →
    let column := fun (o : Sprite) => ((x : Int) - o.x).toNat
    let visible := fun (o : Sprite) =>
      o.x ≤ (x : Int) ∧ (x : Int) < o.x + 8 ∧ s.spriteIndex o y (column o) ≠ 0 ∧
      (o.attr.getLsbD 7 = false ∨ s.bgIndex y x = 0)
    let cell := (s.renderLine y).ppu.pix.cell y x
    ((∀ k, s.Selected y k → ¬visible (s.sprite k)) → cell = shade s.ppu.bgp (s.bgIndex y x)) ∧
    ∀ k, s.Selected y k → visible (s.sprite k) →
      (∀ j, s.Selected y j → visible (s.sprite j) →
        j = k ∨ (s.sprite k).x < (s.sprite j).x ∨ ((s.sprite k).x = (s.sprite j).x ∧ k < j)) →
      cell =
        shade (if (s.sprite k).attr.getLsbD 4 then s.ppu.obp1 else s.ppu.obp0) (s.spriteIndex (s.sprite k) y (column (s.sprite k)))

/-! ### The host -/

/-- R366, R367: a button update raises the joypad interrupt if at least one button goes from released to pressed, whatever
group is selected, then stores the new state; nothing else changes. -/
def Obligations.ButtonUpdate : Prop :=
  ∀ (s : State) (new : Byte),
    s.updateButtons new =
      { s with
        joypad := { s.joypad with buttons := new }
        iflag := if ∃ k, k < 8 ∧ new.getLsbD k = true ∧ s.joypad.buttons.getLsbD k = false then s.iflag ||| 0x10 else s.iflag }

/-- Pausing and continuing change no machine state and while paused the host's turn makes no step (R371); the reset command
replaces the whole state by the reset state on the same images (R372). The session that holds a run flag and a count of pause
notifications beside the machine, what the commands do to that count, and that the reset command leaves the run flag as it is,
are the model's choice (log entry 8): no rule says that a reset leaves the flag. -/
def Obligations.HostCommands : Prop :=
  ∀ h : HostSession,
    (h.pause.machine = h.machine ∧ h.pause.running = false ∧ h.pause.notifications = h.notifications + 1) ∧
    (h.resume.machine = h.machine ∧ h.resume.running = true ∧ h.resume.notifications = h.notifications) ∧
    (h.reset.machine = State.resetOn h.machine.rom h.machine.bootRom ∧ h.reset.running = h.running) ∧
    (h.pause.turn = .next h.pause) ∧
    (∃ t, step h.machine = .next t ∧ h.resume.turn = .next { h.resume with machine := t })
end

