-- ==== Sys2Proof/Laws/State.lean ====
section
/-! SUPPORT. One lemma per field per update of State, each true by `rfl`, and the laws of the register file, so that no later proof
unfolds a record update. -/

namespace Sys2Proof.Machine

variable (s : State)

/-! ### `setReg` -/

@[simp] theorem State.setReg_regs (r : Reg8) (v : Byte) : (s.setReg r v).regs = s.regs.setReg r v := rfl
@[simp] theorem State.setReg_ime (r : Reg8) (v : Byte) : (s.setReg r v).ime = s.ime := rfl
@[simp] theorem State.setReg_ie (r : Reg8) (v : Byte) : (s.setReg r v).ie = s.ie := rfl
@[simp] theorem State.setReg_iflag (r : Reg8) (v : Byte) : (s.setReg r v).iflag = s.iflag := rfl
@[simp] theorem State.setReg_halted (r : Reg8) (v : Byte) : (s.setReg r v).halted = s.halted := rfl
@[simp] theorem State.setReg_boot (r : Reg8) (v : Byte) : (s.setReg r v).boot = s.boot := rfl
@[simp] theorem State.setReg_rom (r : Reg8) (v : Byte) : (s.setReg r v).rom = s.rom := rfl
@[simp] theorem State.setReg_bootRom (r : Reg8) (v : Byte) : (s.setReg r v).bootRom = s.bootRom := rfl
@[simp] theorem State.setReg_ram (r : Reg8) (v : Byte) : (s.setReg r v).ram = s.ram := rfl
@[simp] theorem State.setReg_timer (r : Reg8) (v : Byte) : (s.setReg r v).timer = s.timer := rfl
@[simp] theorem State.setReg_ppu (r : Reg8) (v : Byte) : (s.setReg r v).ppu = s.ppu := rfl
@[simp] theorem State.setReg_joypad (r : Reg8) (v : Byte) : (s.setReg r v).joypad = s.joypad := rfl
@[simp] theorem State.setReg_diags (r : Reg8) (v : Byte) : (s.setReg r v).diags = s.diags := rfl
@[simp] theorem State.setReg_cost (r : Reg8) (v : Byte) : (s.setReg r v).cost = s.cost := rfl

/-! ### `setPair` -/

@[simp] theorem State.setPair_regs (p : Pair) (w : Word) : (s.setPair p w).regs = s.regs.setPair p w := rfl
@[simp] theorem State.setPair_ime (p : Pair) (w : Word) : (s.setPair p w).ime = s.ime := rfl
@[simp] theorem State.setPair_ie (p : Pair) (w : Word) : (s.setPair p w).ie = s.ie := rfl
@[simp] theorem State.setPair_iflag (p : Pair) (w : Word) : (s.setPair p w).iflag = s.iflag := rfl
@[simp] theorem State.setPair_halted (p : Pair) (w : Word) : (s.setPair p w).halted = s.halted := rfl
@[simp] theorem State.setPair_boot (p : Pair) (w : Word) : (s.setPair p w).boot = s.boot := rfl
@[simp] theorem State.setPair_rom (p : Pair) (w : Word) : (s.setPair p w).rom = s.rom := rfl
@[simp] theorem State.setPair_bootRom (p : Pair) (w : Word) : (s.setPair p w).bootRom = s.bootRom := rfl
@[simp] theorem State.setPair_ram (p : Pair) (w : Word) : (s.setPair p w).ram = s.ram := rfl
@[simp] theorem State.setPair_timer (p : Pair) (w : Word) : (s.setPair p w).timer = s.timer := rfl
@[simp] theorem State.setPair_ppu (p : Pair) (w : Word) : (s.setPair p w).ppu = s.ppu := rfl
@[simp] theorem State.setPair_joypad (p : Pair) (w : Word) : (s.setPair p w).joypad = s.joypad := rfl
@[simp] theorem State.setPair_diags (p : Pair) (w : Word) : (s.setPair p w).diags = s.diags := rfl
@[simp] theorem State.setPair_cost (p : Pair) (w : Word) : (s.setPair p w).cost = s.cost := rfl

/-! ### `setPairQ` -/

@[simp] theorem State.setPairQ_regs (q : PairQ) (w : Word) : (s.setPairQ q w).regs = s.regs.setPairQ q w := rfl
@[simp] theorem State.setPairQ_ime (q : PairQ) (w : Word) : (s.setPairQ q w).ime = s.ime := rfl
@[simp] theorem State.setPairQ_ie (q : PairQ) (w : Word) : (s.setPairQ q w).ie = s.ie := rfl
@[simp] theorem State.setPairQ_iflag (q : PairQ) (w : Word) : (s.setPairQ q w).iflag = s.iflag := rfl
@[simp] theorem State.setPairQ_halted (q : PairQ) (w : Word) : (s.setPairQ q w).halted = s.halted := rfl
@[simp] theorem State.setPairQ_boot (q : PairQ) (w : Word) : (s.setPairQ q w).boot = s.boot := rfl
@[simp] theorem State.setPairQ_rom (q : PairQ) (w : Word) : (s.setPairQ q w).rom = s.rom := rfl
@[simp] theorem State.setPairQ_bootRom (q : PairQ) (w : Word) : (s.setPairQ q w).bootRom = s.bootRom := rfl
@[simp] theorem State.setPairQ_ram (q : PairQ) (w : Word) : (s.setPairQ q w).ram = s.ram := rfl
@[simp] theorem State.setPairQ_timer (q : PairQ) (w : Word) : (s.setPairQ q w).timer = s.timer := rfl
@[simp] theorem State.setPairQ_ppu (q : PairQ) (w : Word) : (s.setPairQ q w).ppu = s.ppu := rfl
@[simp] theorem State.setPairQ_joypad (q : PairQ) (w : Word) : (s.setPairQ q w).joypad = s.joypad := rfl
@[simp] theorem State.setPairQ_diags (q : PairQ) (w : Word) : (s.setPairQ q w).diags = s.diags := rfl
@[simp] theorem State.setPairQ_cost (q : PairQ) (w : Word) : (s.setPairQ q w).cost = s.cost := rfl

/-! ### `setFlags` -/

@[simp] theorem State.setFlags_regs (f : Flags) : (s.setFlags f).regs = { s.regs with f := f } := rfl
@[simp] theorem State.setFlags_ime (f : Flags) : (s.setFlags f).ime = s.ime := rfl
@[simp] theorem State.setFlags_ie (f : Flags) : (s.setFlags f).ie = s.ie := rfl
@[simp] theorem State.setFlags_iflag (f : Flags) : (s.setFlags f).iflag = s.iflag := rfl
@[simp] theorem State.setFlags_halted (f : Flags) : (s.setFlags f).halted = s.halted := rfl
@[simp] theorem State.setFlags_boot (f : Flags) : (s.setFlags f).boot = s.boot := rfl
@[simp] theorem State.setFlags_rom (f : Flags) : (s.setFlags f).rom = s.rom := rfl
@[simp] theorem State.setFlags_bootRom (f : Flags) : (s.setFlags f).bootRom = s.bootRom := rfl
@[simp] theorem State.setFlags_ram (f : Flags) : (s.setFlags f).ram = s.ram := rfl
@[simp] theorem State.setFlags_timer (f : Flags) : (s.setFlags f).timer = s.timer := rfl
@[simp] theorem State.setFlags_ppu (f : Flags) : (s.setFlags f).ppu = s.ppu := rfl
@[simp] theorem State.setFlags_joypad (f : Flags) : (s.setFlags f).joypad = s.joypad := rfl
@[simp] theorem State.setFlags_diags (f : Flags) : (s.setFlags f).diags = s.diags := rfl
@[simp] theorem State.setFlags_cost (f : Flags) : (s.setFlags f).cost = s.cost := rfl

/-! ### `setPc` -/

@[simp] theorem State.setPc_regs (w : Word) : (s.setPc w).regs = { s.regs with pc := w } := rfl
@[simp] theorem State.setPc_ime (w : Word) : (s.setPc w).ime = s.ime := rfl
@[simp] theorem State.setPc_ie (w : Word) : (s.setPc w).ie = s.ie := rfl
@[simp] theorem State.setPc_iflag (w : Word) : (s.setPc w).iflag = s.iflag := rfl
@[simp] theorem State.setPc_halted (w : Word) : (s.setPc w).halted = s.halted := rfl
@[simp] theorem State.setPc_boot (w : Word) : (s.setPc w).boot = s.boot := rfl
@[simp] theorem State.setPc_rom (w : Word) : (s.setPc w).rom = s.rom := rfl
@[simp] theorem State.setPc_bootRom (w : Word) : (s.setPc w).bootRom = s.bootRom := rfl
@[simp] theorem State.setPc_ram (w : Word) : (s.setPc w).ram = s.ram := rfl
@[simp] theorem State.setPc_timer (w : Word) : (s.setPc w).timer = s.timer := rfl
@[simp] theorem State.setPc_ppu (w : Word) : (s.setPc w).ppu = s.ppu := rfl
@[simp] theorem State.setPc_joypad (w : Word) : (s.setPc w).joypad = s.joypad := rfl
@[simp] theorem State.setPc_diags (w : Word) : (s.setPc w).diags = s.diags := rfl
@[simp] theorem State.setPc_cost (w : Word) : (s.setPc w).cost = s.cost := rfl

/-! ### `setSp` -/

@[simp] theorem State.setSp_regs (w : Word) : (s.setSp w).regs = { s.regs with sp := w } := rfl
@[simp] theorem State.setSp_ime (w : Word) : (s.setSp w).ime = s.ime := rfl
@[simp] theorem State.setSp_ie (w : Word) : (s.setSp w).ie = s.ie := rfl
@[simp] theorem State.setSp_iflag (w : Word) : (s.setSp w).iflag = s.iflag := rfl
@[simp] theorem State.setSp_halted (w : Word) : (s.setSp w).halted = s.halted := rfl
@[simp] theorem State.setSp_boot (w : Word) : (s.setSp w).boot = s.boot := rfl
@[simp] theorem State.setSp_rom (w : Word) : (s.setSp w).rom = s.rom := rfl
@[simp] theorem State.setSp_bootRom (w : Word) : (s.setSp w).bootRom = s.bootRom := rfl
@[simp] theorem State.setSp_ram (w : Word) : (s.setSp w).ram = s.ram := rfl
@[simp] theorem State.setSp_timer (w : Word) : (s.setSp w).timer = s.timer := rfl
@[simp] theorem State.setSp_ppu (w : Word) : (s.setSp w).ppu = s.ppu := rfl
@[simp] theorem State.setSp_joypad (w : Word) : (s.setSp w).joypad = s.joypad := rfl
@[simp] theorem State.setSp_diags (w : Word) : (s.setSp w).diags = s.diags := rfl
@[simp] theorem State.setSp_cost (w : Word) : (s.setSp w).cost = s.cost := rfl

/-! ### `accumulate` -/

@[simp] theorem State.accumulate_regs (o : AluOut) : (s.accumulate o).regs = { s.regs with a := o.res, f := o.flags } := rfl
@[simp] theorem State.accumulate_ime (o : AluOut) : (s.accumulate o).ime = s.ime := rfl
@[simp] theorem State.accumulate_ie (o : AluOut) : (s.accumulate o).ie = s.ie := rfl
@[simp] theorem State.accumulate_iflag (o : AluOut) : (s.accumulate o).iflag = s.iflag := rfl
@[simp] theorem State.accumulate_halted (o : AluOut) : (s.accumulate o).halted = s.halted := rfl
@[simp] theorem State.accumulate_boot (o : AluOut) : (s.accumulate o).boot = s.boot := rfl
@[simp] theorem State.accumulate_rom (o : AluOut) : (s.accumulate o).rom = s.rom := rfl
@[simp] theorem State.accumulate_bootRom (o : AluOut) : (s.accumulate o).bootRom = s.bootRom := rfl
@[simp] theorem State.accumulate_ram (o : AluOut) : (s.accumulate o).ram = s.ram := rfl
@[simp] theorem State.accumulate_timer (o : AluOut) : (s.accumulate o).timer = s.timer := rfl
@[simp] theorem State.accumulate_ppu (o : AluOut) : (s.accumulate o).ppu = s.ppu := rfl
@[simp] theorem State.accumulate_joypad (o : AluOut) : (s.accumulate o).joypad = s.joypad := rfl
@[simp] theorem State.accumulate_diags (o : AluOut) : (s.accumulate o).diags = s.diags := rfl
@[simp] theorem State.accumulate_cost (o : AluOut) : (s.accumulate o).cost = s.cost := rfl

/-! ### `setIme` -/

@[simp] theorem State.setIme_regs (b : Bool) : (s.setIme b).regs = s.regs := rfl
@[simp] theorem State.setIme_ime (b : Bool) : (s.setIme b).ime = b := rfl
@[simp] theorem State.setIme_ie (b : Bool) : (s.setIme b).ie = s.ie := rfl
@[simp] theorem State.setIme_iflag (b : Bool) : (s.setIme b).iflag = s.iflag := rfl
@[simp] theorem State.setIme_halted (b : Bool) : (s.setIme b).halted = s.halted := rfl
@[simp] theorem State.setIme_boot (b : Bool) : (s.setIme b).boot = s.boot := rfl
@[simp] theorem State.setIme_rom (b : Bool) : (s.setIme b).rom = s.rom := rfl
@[simp] theorem State.setIme_bootRom (b : Bool) : (s.setIme b).bootRom = s.bootRom := rfl
@[simp] theorem State.setIme_ram (b : Bool) : (s.setIme b).ram = s.ram := rfl
@[simp] theorem State.setIme_timer (b : Bool) : (s.setIme b).timer = s.timer := rfl
@[simp] theorem State.setIme_ppu (b : Bool) : (s.setIme b).ppu = s.ppu := rfl
@[simp] theorem State.setIme_joypad (b : Bool) : (s.setIme b).joypad = s.joypad := rfl
@[simp] theorem State.setIme_diags (b : Bool) : (s.setIme b).diags = s.diags := rfl
@[simp] theorem State.setIme_cost (b : Bool) : (s.setIme b).cost = s.cost := rfl

/-! ### `setHalted` -/

@[simp] theorem State.setHalted_regs (b : Bool) : (s.setHalted b).regs = s.regs := rfl
@[simp] theorem State.setHalted_ime (b : Bool) : (s.setHalted b).ime = s.ime := rfl
@[simp] theorem State.setHalted_ie (b : Bool) : (s.setHalted b).ie = s.ie := rfl
@[simp] theorem State.setHalted_iflag (b : Bool) : (s.setHalted b).iflag = s.iflag := rfl
@[simp] theorem State.setHalted_halted (b : Bool) : (s.setHalted b).halted = b := rfl
@[simp] theorem State.setHalted_boot (b : Bool) : (s.setHalted b).boot = s.boot := rfl
@[simp] theorem State.setHalted_rom (b : Bool) : (s.setHalted b).rom = s.rom := rfl
@[simp] theorem State.setHalted_bootRom (b : Bool) : (s.setHalted b).bootRom = s.bootRom := rfl
@[simp] theorem State.setHalted_ram (b : Bool) : (s.setHalted b).ram = s.ram := rfl
@[simp] theorem State.setHalted_timer (b : Bool) : (s.setHalted b).timer = s.timer := rfl
@[simp] theorem State.setHalted_ppu (b : Bool) : (s.setHalted b).ppu = s.ppu := rfl
@[simp] theorem State.setHalted_joypad (b : Bool) : (s.setHalted b).joypad = s.joypad := rfl
@[simp] theorem State.setHalted_diags (b : Bool) : (s.setHalted b).diags = s.diags := rfl
@[simp] theorem State.setHalted_cost (b : Bool) : (s.setHalted b).cost = s.cost := rfl

/-! ### `setIf` -/

@[simp] theorem State.setIf_regs (v : Byte) : (s.setIf v).regs = s.regs := rfl
@[simp] theorem State.setIf_ime (v : Byte) : (s.setIf v).ime = s.ime := rfl
@[simp] theorem State.setIf_ie (v : Byte) : (s.setIf v).ie = s.ie := rfl
@[simp] theorem State.setIf_iflag (v : Byte) : (s.setIf v).iflag = v := rfl
@[simp] theorem State.setIf_halted (v : Byte) : (s.setIf v).halted = s.halted := rfl
@[simp] theorem State.setIf_boot (v : Byte) : (s.setIf v).boot = s.boot := rfl
@[simp] theorem State.setIf_rom (v : Byte) : (s.setIf v).rom = s.rom := rfl
@[simp] theorem State.setIf_bootRom (v : Byte) : (s.setIf v).bootRom = s.bootRom := rfl
@[simp] theorem State.setIf_ram (v : Byte) : (s.setIf v).ram = s.ram := rfl
@[simp] theorem State.setIf_timer (v : Byte) : (s.setIf v).timer = s.timer := rfl
@[simp] theorem State.setIf_ppu (v : Byte) : (s.setIf v).ppu = s.ppu := rfl
@[simp] theorem State.setIf_joypad (v : Byte) : (s.setIf v).joypad = s.joypad := rfl
@[simp] theorem State.setIf_diags (v : Byte) : (s.setIf v).diags = s.diags := rfl
@[simp] theorem State.setIf_cost (v : Byte) : (s.setIf v).cost = s.cost := rfl

/-! ### `setCost` -/

@[simp] theorem State.setCost_regs (n : Nat) : (s.setCost n).regs = s.regs := rfl
@[simp] theorem State.setCost_ime (n : Nat) : (s.setCost n).ime = s.ime := rfl
@[simp] theorem State.setCost_ie (n : Nat) : (s.setCost n).ie = s.ie := rfl
@[simp] theorem State.setCost_iflag (n : Nat) : (s.setCost n).iflag = s.iflag := rfl
@[simp] theorem State.setCost_halted (n : Nat) : (s.setCost n).halted = s.halted := rfl
@[simp] theorem State.setCost_boot (n : Nat) : (s.setCost n).boot = s.boot := rfl
@[simp] theorem State.setCost_rom (n : Nat) : (s.setCost n).rom = s.rom := rfl
@[simp] theorem State.setCost_bootRom (n : Nat) : (s.setCost n).bootRom = s.bootRom := rfl
@[simp] theorem State.setCost_ram (n : Nat) : (s.setCost n).ram = s.ram := rfl
@[simp] theorem State.setCost_timer (n : Nat) : (s.setCost n).timer = s.timer := rfl
@[simp] theorem State.setCost_ppu (n : Nat) : (s.setCost n).ppu = s.ppu := rfl
@[simp] theorem State.setCost_joypad (n : Nat) : (s.setCost n).joypad = s.joypad := rfl
@[simp] theorem State.setCost_diags (n : Nat) : (s.setCost n).diags = s.diags := rfl
@[simp] theorem State.setCost_cost (n : Nat) : (s.setCost n).cost = n := rfl

/-! ### `writeRam` -/

@[simp] theorem State.writeRam_regs (k : Nat) (v : Byte) : (s.writeRam k v).regs = s.regs := rfl
@[simp] theorem State.writeRam_ime (k : Nat) (v : Byte) : (s.writeRam k v).ime = s.ime := rfl
@[simp] theorem State.writeRam_ie (k : Nat) (v : Byte) : (s.writeRam k v).ie = s.ie := rfl
@[simp] theorem State.writeRam_iflag (k : Nat) (v : Byte) : (s.writeRam k v).iflag = s.iflag := rfl
@[simp] theorem State.writeRam_halted (k : Nat) (v : Byte) : (s.writeRam k v).halted = s.halted := rfl
@[simp] theorem State.writeRam_boot (k : Nat) (v : Byte) : (s.writeRam k v).boot = s.boot := rfl
@[simp] theorem State.writeRam_rom (k : Nat) (v : Byte) : (s.writeRam k v).rom = s.rom := rfl
@[simp] theorem State.writeRam_bootRom (k : Nat) (v : Byte) : (s.writeRam k v).bootRom = s.bootRom := rfl
@[simp] theorem State.writeRam_ram (k : Nat) (v : Byte) : (s.writeRam k v).ram = s.ram.write k v := rfl
@[simp] theorem State.writeRam_timer (k : Nat) (v : Byte) : (s.writeRam k v).timer = s.timer := rfl
@[simp] theorem State.writeRam_ppu (k : Nat) (v : Byte) : (s.writeRam k v).ppu = s.ppu := rfl
@[simp] theorem State.writeRam_joypad (k : Nat) (v : Byte) : (s.writeRam k v).joypad = s.joypad := rfl
@[simp] theorem State.writeRam_diags (k : Nat) (v : Byte) : (s.writeRam k v).diags = s.diags := rfl
@[simp] theorem State.writeRam_cost (k : Nat) (v : Byte) : (s.writeRam k v).cost = s.cost := rfl

/-! ### `emit` -/

@[simp] theorem State.emit_regs (x : Word) (v : Byte) : (s.emit x v).regs = s.regs := rfl
@[simp] theorem State.emit_ime (x : Word) (v : Byte) : (s.emit x v).ime = s.ime := rfl
@[simp] theorem State.emit_ie (x : Word) (v : Byte) : (s.emit x v).ie = s.ie := rfl
@[simp] theorem State.emit_iflag (x : Word) (v : Byte) : (s.emit x v).iflag = s.iflag := rfl
@[simp] theorem State.emit_halted (x : Word) (v : Byte) : (s.emit x v).halted = s.halted := rfl
@[simp] theorem State.emit_boot (x : Word) (v : Byte) : (s.emit x v).boot = s.boot := rfl
@[simp] theorem State.emit_rom (x : Word) (v : Byte) : (s.emit x v).rom = s.rom := rfl
@[simp] theorem State.emit_bootRom (x : Word) (v : Byte) : (s.emit x v).bootRom = s.bootRom := rfl
@[simp] theorem State.emit_ram (x : Word) (v : Byte) : (s.emit x v).ram = s.ram := rfl
@[simp] theorem State.emit_timer (x : Word) (v : Byte) : (s.emit x v).timer = s.timer := rfl
@[simp] theorem State.emit_ppu (x : Word) (v : Byte) : (s.emit x v).ppu = s.ppu := rfl
@[simp] theorem State.emit_joypad (x : Word) (v : Byte) : (s.emit x v).joypad = s.joypad := rfl
@[simp] theorem State.emit_diags (x : Word) (v : Byte) : (s.emit x v).diags = s.diags ++ [{ kind := .unimplementedOpcode, addr := x, byte := v }] := rfl
@[simp] theorem State.emit_cost (x : Word) (v : Byte) : (s.emit x v).cost = s.cost := rfl

/-! ### `raise` -/

@[simp] theorem State.raise_regs (i : Interrupt) : (s.raise i).regs = s.regs := rfl
@[simp] theorem State.raise_ime (i : Interrupt) : (s.raise i).ime = s.ime := rfl
@[simp] theorem State.raise_ie (i : Interrupt) : (s.raise i).ie = s.ie := rfl
@[simp] theorem State.raise_iflag (i : Interrupt) : (s.raise i).iflag = s.iflag ||| i.mask := rfl
@[simp] theorem State.raise_halted (i : Interrupt) : (s.raise i).halted = s.halted := rfl
@[simp] theorem State.raise_boot (i : Interrupt) : (s.raise i).boot = s.boot := rfl
@[simp] theorem State.raise_rom (i : Interrupt) : (s.raise i).rom = s.rom := rfl
@[simp] theorem State.raise_bootRom (i : Interrupt) : (s.raise i).bootRom = s.bootRom := rfl
@[simp] theorem State.raise_ram (i : Interrupt) : (s.raise i).ram = s.ram := rfl
@[simp] theorem State.raise_timer (i : Interrupt) : (s.raise i).timer = s.timer := rfl
@[simp] theorem State.raise_ppu (i : Interrupt) : (s.raise i).ppu = s.ppu := rfl
@[simp] theorem State.raise_joypad (i : Interrupt) : (s.raise i).joypad = s.joypad := rfl
@[simp] theorem State.raise_diags (i : Interrupt) : (s.raise i).diags = s.diags := rfl
@[simp] theorem State.raise_cost (i : Interrupt) : (s.raise i).cost = s.cost := rfl

/-! ### Reading registers after the updates -/

variable (g : Regs)

theorem Regs.reg_setReg (r r' : Reg8) (v : Byte) : (g.setReg r v).reg r' = if r' = r then v else g.reg r' := by
  cases r <;> cases r' <;> rfl

@[simp] theorem Regs.reg_setReg_self (r : Reg8) (v : Byte) : (g.setReg r v).reg r = v := by cases r <;> rfl

@[simp] theorem Regs.reg_setReg_ne {r r' : Reg8} (h : r' ≠ r) (v : Byte) : (g.setReg r v).reg r' = g.reg r' := by
  simp [Regs.reg_setReg, h]

@[simp] theorem Regs.setReg_f (r : Reg8) (v : Byte) : (g.setReg r v).f = g.f := by cases r <;> rfl
@[simp] theorem Regs.setReg_sp (r : Reg8) (v : Byte) : (g.setReg r v).sp = g.sp := by cases r <;> rfl
@[simp] theorem Regs.setReg_pc (r : Reg8) (v : Byte) : (g.setReg r v).pc = g.pc := by cases r <;> rfl

@[simp] theorem word_hi_lo (w : Word) : word (hi w) (lo w) = w := by
  unfold word hi lo
  ext i hi
  simp only [BitVec.getElem_append, BitVec.getElem_extractLsb']
  split
  · simp [BitVec.getLsbD_eq_getElem hi]
  · rw [show 8 + (i - 8) = i by omega]
    simp [BitVec.getLsbD_eq_getElem hi]

@[simp] theorem hi_word (h l : Byte) : hi (word h l) = h := by
  unfold word hi
  ext i hi
  simp only [BitVec.getElem_extractLsb']
  exact (BitVec.getLsbD_append (x := h) (y := l)).trans (by simp [BitVec.getLsbD_eq_getElem hi])

@[simp] theorem lo_word (h l : Byte) : lo (word h l) = l := by
  unfold word lo
  ext i hi
  simp only [BitVec.getElem_extractLsb']
  exact (BitVec.getLsbD_append (x := h) (y := l)).trans (by simp [hi])

@[simp] theorem Regs.pair_setPair_self (p : Pair) (w : Word) : (g.setPair p w).pair p = w := by
  cases p <;> simp [Regs.setPair, Regs.pair]

theorem Regs.pair_setPair_ne {p p' : Pair} (h : p' ≠ p) (w : Word) : (g.setPair p w).pair p' = g.pair p' := by
  cases p <;> cases p' <;> first | rfl | exact absurd rfl h

@[simp] theorem Regs.setPair_f (p : Pair) (w : Word) : (g.setPair p w).f = g.f := by cases p <;> rfl
@[simp] theorem Regs.setPair_pc (p : Pair) (w : Word) : (g.setPair p w).pc = g.pc := by cases p <;> rfl
@[simp] theorem Regs.setPair_a (p : Pair) (w : Word) : (g.setPair p w).a = g.a := by cases p <;> rfl

theorem Regs.pairQ_setPairQ_ne {q q' : PairQ} (h : q' ≠ q) (w : Word) : (g.setPairQ q w).pairQ q' = g.pairQ q' := by
  cases q <;> cases q' <;> first | rfl | exact absurd rfl h

@[simp] theorem Regs.setPairQ_sp (q : PairQ) (w : Word) : (g.setPairQ q w).sp = g.sp := by cases q <;> rfl
@[simp] theorem Regs.setPairQ_pc (q : PairQ) (w : Word) : (g.setPairQ q w).pc = g.pc := by cases q <;> rfl

end Sys2Proof.Machine
end

