-- ==== Sys2Proof/Laws/Store.lean ====
section
/-! SUPPORT. The laws of sparse storage: reading after writing, and that a write keeps the canonical form. -/

namespace Sys2Proof.Machine

variable {β : Type} {dflt : β}

theorem canonical_nil : Canonical dflt ([] : List (Nat × β)) := by simp [Canonical]

theorem canonical_cons {p : Nat × β} {l : List (Nat × β)} :
    Canonical dflt (p :: l) ↔ (∀ q ∈ l, p.1 < q.1) ∧ p.2 ≠ dflt ∧ Canonical dflt l := by
  simp only [Canonical, List.pairwise_cons, List.mem_cons, forall_eq_or_imp]
  tauto

/-- A key below every listed key reads as the default. -/
theorem lookup_below {l : List (Nat × β)} {a : Nat} (h : ∀ q ∈ l, a < q.1) : lookup dflt l a = dflt := by
  induction l with
  | nil => rfl
  | cons p l ih =>
    have hp := h p (by simp)
    simp only [lookup, if_neg (show a ≠ p.1 by omega)]
    exact ih fun q hq => h q (by simp [hq])

variable [DecidableEq β]

theorem lookup_update_ne (l : List (Nat × β)) {a b : Nat} (v : β) (h : b ≠ a) :
    lookup dflt (update dflt l a v) b = lookup dflt l b := by
  induction l with
  | nil => simp only [update]; split <;> simp [lookup, h]
  | cons p l ih =>
    obtain ⟨k, w⟩ := p
    simp only [update]
    split
    · split <;> simp [lookup, h]
    · split
      · subst_vars; split <;> simp [lookup, h]
      · simp [lookup, ih]

theorem lookup_update_self {l : List (Nat × β)} (hl : Canonical dflt l) (a : Nat) (v : β) :
    lookup dflt (update dflt l a v) a = v := by
  induction l with
  | nil => simp only [update]; split <;> simp_all [lookup]
  | cons p l ih =>
    obtain ⟨k, w⟩ := p
    obtain ⟨hk, -, hl⟩ := canonical_cons.1 hl
    simp only [update]
    split
    · split
      · subst_vars
        simp only [lookup, if_neg (show a ≠ k by omega)]
        exact lookup_below fun q hq => Nat.lt_trans ‹a < k› (hk q hq)
      · simp [lookup]
    · split
      · subst_vars
        split
        · subst_vars; exact lookup_below hk
        · simp [lookup]
      · simp only [lookup, if_neg ‹¬a = k›]; exact ih hl

theorem lookup_update {l : List (Nat × β)} (hl : Canonical dflt l) (a b : Nat) (v : β) :
    lookup dflt (update dflt l a v) b = if b = a then v else lookup dflt l b := by
  split
  · subst_vars; exact lookup_update_self hl b v
  · exact lookup_update_ne l v ‹_›

/-- A write lists no pair but the old ones and the new one. -/
theorem mem_update {l : List (Nat × β)} {a : Nat} {v : β} {p : Nat × β} (h : p ∈ update dflt l a v) :
    p = (a, v) ∨ p ∈ l := by
  induction l with
  | nil => simp only [update] at h; split at h <;> simp_all
  | cons q l ih =>
    obtain ⟨k, w⟩ := q
    simp only [update] at h
    split at h
    · split at h <;> simp_all
    · split at h
      · split at h <;> simp_all
        tauto
      · simp only [List.mem_cons] at h ⊢
        rcases h with h | h
        · exact .inr (.inl h)
        · rcases ih h with h | h
          · exact .inl h
          · exact .inr (.inr h)

theorem update_canonical {l : List (Nat × β)} (hl : Canonical dflt l) (a : Nat) (v : β) :
    Canonical dflt (update dflt l a v) := by
  induction l with
  | nil => simp only [update]; split <;> simp_all [Canonical]
  | cons p l ih =>
    obtain ⟨k, w⟩ := p
    have hp := canonical_cons.1 hl
    obtain ⟨hk, hw, hl'⟩ := hp
    simp only [update]
    split
    · split
      · exact hl
      · refine canonical_cons.2 ⟨?_, ‹_›, hl⟩
        simp only [List.mem_cons, forall_eq_or_imp]
        exact ⟨‹_›, fun q hq => Nat.lt_trans ‹a < k› (hk q hq)⟩
    · split
      · subst_vars
        split
        · exact hl'
        · exact canonical_cons.2 ⟨hk, ‹_›, hl'⟩
      · refine canonical_cons.2 ⟨fun q hq => ?_, hw, ih hl'⟩
        rcases mem_update hq with rfl | h
        · simp only at *; omega
        · exact hk q h

end Sys2Proof.Machine
end

