-- ==== Sys2Proof/Laws/Bus.lean ====
section
/-! SUPPORT. What the bus can do, said once: the regions by their bounds, every field after a read and after a write, which
readings a write changes, what it leaves to be read, and that no access breaks the canonical form of the memories. -/

namespace Sys2Proof.Machine

variable (s : State)

/-! ### The partition by its bounds -/

theorem regionOf_overlay (a : Word) : regionOf a = .bootOverlay ↔ a.toNat < 0x0100 := by
  unfold regionOf; split_ifs <;> simp <;> omega
theorem regionOf_rom (a : Word) : regionOf a = .rom ↔ 0x0100 ≤ a.toNat ∧ a.toNat < 0x8000 := by
  unfold regionOf; split_ifs <;> simp <;> omega
theorem regionOf_vram (a : Word) : regionOf a = .vram ↔ 0x8000 ≤ a.toNat ∧ a.toNat < 0xA000 := by
  unfold regionOf; split_ifs <;> simp <;> omega
theorem regionOf_eram (a : Word) : regionOf a = .eram ↔ 0xA000 ≤ a.toNat ∧ a.toNat < 0xC000 := by
  unfold regionOf; split_ifs <;> simp <;> omega
theorem regionOf_wram (a : Word) : regionOf a = .wram ↔ 0xC000 ≤ a.toNat ∧ a.toNat < 0xE000 := by
  unfold regionOf; split_ifs <;> simp <;> omega
theorem regionOf_echo (a : Word) : regionOf a = .echo ↔ 0xE000 ≤ a.toNat ∧ a.toNat < 0xFE00 := by
  unfold regionOf; split_ifs <;> simp <;> omega
theorem regionOf_oam (a : Word) : regionOf a = .oam ↔ 0xFE00 ≤ a.toNat ∧ a.toNat < 0xFEA0 := by
  unfold regionOf; split_ifs <;> simp <;> omega
theorem regionOf_gap (a : Word) : regionOf a = .gap ↔ 0xFEA0 ≤ a.toNat ∧ a.toNat < 0xFF00 := by
  unfold regionOf; split_ifs <;> simp <;> omega
theorem regionOf_io (a : Word) : regionOf a = .io ↔ 0xFF00 ≤ a.toNat ∧ a.toNat < 0xFF80 := by
  unfold regionOf; split_ifs <;> simp <;> omega
theorem regionOf_hram (a : Word) : regionOf a = .hram ↔ 0xFF80 ≤ a.toNat ∧ a.toNat < 0xFFFF := by
  unfold regionOf; split_ifs <;> simp <;> omega
theorem regionOf_ie (a : Word) : regionOf a = .interruptEnable ↔ a.toNat = 0xFFFF := by
  have := a.isLt
  unfold regionOf; split_ifs <;> simp <;> omega

/-- The five regions of plain storage are the addresses of `RamAddr`. -/
theorem ramAddr_iff (a : Word) :
    RamAddr a.toNat ↔ regionOf a = .vram ∨ regionOf a = .eram ∨ regionOf a = .wram ∨ regionOf a = .oam ∨ regionOf a = .hram := by
  rw [regionOf_vram, regionOf_eram, regionOf_wram, regionOf_oam, regionOf_hram]
  unfold RamAddr
  omega

theorem peek_ram {a : Word} (h : RamAddr a.toNat) : s.peek a = s.ram.read a.toNat := by
  rcases (ramAddr_iff a).1 h with h | h | h | h | h <;> simp only [State.peek, h]

theorem writeByte_ram {a : Word} (h : RamAddr a.toNat) (v : Byte) : s.writeByte a v = s.writeRam a.toNat v := by
  rcases (ramAddr_iff a).1 h with h | h | h | h | h <;> simp only [State.writeByte, h]

/-- What a reading depends on. -/
theorem peek_congr {s t : State} {b : Word} (hboot : b.toNat < 0x100 → t.boot = s.boot) (hrom : t.rom = s.rom)
    (hbr : t.bootRom = s.bootRom) (hram : RamAddr b.toNat → t.ram.read b.toNat = s.ram.read b.toNat)
    (hio : regionOf b = .io → t.readIo (ioRegAt b) = s.readIo (ioRegAt b)) (hie : b.toNat = 0xFFFF → t.ie = s.ie) :
    t.peek b = s.peek b := by
  unfold State.peek
  split
  case h_1 h => rw [hboot ((regionOf_overlay b).1 h), hrom, hbr]
  case h_2 => rw [hrom]
  case h_3 h => exact hram ((ramAddr_iff b).2 (by simp [h]))
  case h_4 h => exact hram ((ramAddr_iff b).2 (by simp [h]))
  case h_5 h => exact hram ((ramAddr_iff b).2 (by simp [h]))
  case h_6 => rfl
  case h_7 h => exact hram ((ramAddr_iff b).2 (by simp [h]))
  case h_8 => rfl
  case h_9 h => exact hio h
  case h_10 h => exact hram ((ramAddr_iff b).2 (by simp [h]))
  case h_11 h => exact hie ((regionOf_ie b).1 h)

/-! ### Readings do not depend on registers, flags, latches and outputs -/

/-- The fields that a reading looks at. -/
theorem peek_same {s t : State} (b : Word) (h1 : t.boot = s.boot) (h2 : t.rom = s.rom) (h3 : t.bootRom = s.bootRom)
    (h4 : t.ram = s.ram) (h5 : t.timer = s.timer) (h6 : t.ppu = s.ppu) (h7 : t.joypad = s.joypad) (h8 : t.iflag = s.iflag)
    (h9 : t.ie = s.ie) : t.peek b = s.peek b := by
  unfold State.peek State.readIo
  rw [h1, h2, h3, h4, h5, h6, h7, h8, h9]

@[simp] theorem peek_setReg (r : Reg8) (v : Byte) (b : Word) : (s.setReg r v).peek b = s.peek b :=
  peek_same b rfl rfl rfl rfl rfl rfl rfl rfl rfl
@[simp] theorem peek_setPair (p : Pair) (w : Word) (b : Word) : (s.setPair p w).peek b = s.peek b :=
  peek_same b rfl rfl rfl rfl rfl rfl rfl rfl rfl
@[simp] theorem peek_setPairQ (q : PairQ) (w : Word) (b : Word) : (s.setPairQ q w).peek b = s.peek b :=
  peek_same b rfl rfl rfl rfl rfl rfl rfl rfl rfl
@[simp] theorem peek_setFlags (f : Flags) (b : Word) : (s.setFlags f).peek b = s.peek b :=
  peek_same b rfl rfl rfl rfl rfl rfl rfl rfl rfl
@[simp] theorem peek_setPc (w : Word) (b : Word) : (s.setPc w).peek b = s.peek b :=
  peek_same b rfl rfl rfl rfl rfl rfl rfl rfl rfl
@[simp] theorem peek_setSp (w : Word) (b : Word) : (s.setSp w).peek b = s.peek b :=
  peek_same b rfl rfl rfl rfl rfl rfl rfl rfl rfl
@[simp] theorem peek_accumulate (o : AluOut) (b : Word) : (s.accumulate o).peek b = s.peek b :=
  peek_same b rfl rfl rfl rfl rfl rfl rfl rfl rfl
@[simp] theorem peek_setIme (x : Bool) (b : Word) : (s.setIme x).peek b = s.peek b :=
  peek_same b rfl rfl rfl rfl rfl rfl rfl rfl rfl
@[simp] theorem peek_setHalted (x : Bool) (b : Word) : (s.setHalted x).peek b = s.peek b :=
  peek_same b rfl rfl rfl rfl rfl rfl rfl rfl rfl
@[simp] theorem peek_setCost (n : Nat) (b : Word) : (s.setCost n).peek b = s.peek b :=
  peek_same b rfl rfl rfl rfl rfl rfl rfl rfl rfl
@[simp] theorem peek_emit (x : Word) (v : Byte) (b : Word) : (s.emit x v).peek b = s.peek b :=
  peek_same b rfl rfl rfl rfl rfl rfl rfl rfl rfl

/-! ### `ReadByte` -/

@[simp] theorem readByte_fst (a : Word) : (s.readByte a).1 = s.peek a := rfl
@[simp] theorem readByte_snd (a : Word) : (s.readByte a).2 = s.afterRead a := rfl

/-- A read of any address but 0x0100 changes nothing (R72). -/
theorem afterRead_ne {a : Word} (h : a ≠ 0x0100) : s.afterRead a = s := if_neg h

@[simp] theorem afterRead_regs (a : Word) : (s.afterRead a).regs = s.regs := by unfold State.afterRead; split <;> rfl
@[simp] theorem afterRead_ime (a : Word) : (s.afterRead a).ime = s.ime := by unfold State.afterRead; split <;> rfl
@[simp] theorem afterRead_ie (a : Word) : (s.afterRead a).ie = s.ie := by unfold State.afterRead; split <;> rfl
@[simp] theorem afterRead_iflag (a : Word) : (s.afterRead a).iflag = s.iflag := by unfold State.afterRead; split <;> rfl
@[simp] theorem afterRead_halted (a : Word) : (s.afterRead a).halted = s.halted := by unfold State.afterRead; split <;> rfl
@[simp] theorem afterRead_rom (a : Word) : (s.afterRead a).rom = s.rom := by unfold State.afterRead; split <;> rfl
@[simp] theorem afterRead_bootRom (a : Word) : (s.afterRead a).bootRom = s.bootRom := by
  unfold State.afterRead; split <;> rfl
@[simp] theorem afterRead_ram (a : Word) : (s.afterRead a).ram = s.ram := by unfold State.afterRead; split <;> rfl
@[simp] theorem afterRead_timer (a : Word) : (s.afterRead a).timer = s.timer := by unfold State.afterRead; split <;> rfl
@[simp] theorem afterRead_ppu (a : Word) : (s.afterRead a).ppu = s.ppu := by unfold State.afterRead; split <;> rfl
@[simp] theorem afterRead_joypad (a : Word) : (s.afterRead a).joypad = s.joypad := by unfold State.afterRead; split <;> rfl
@[simp] theorem afterRead_diags (a : Word) : (s.afterRead a).diags = s.diags := by unfold State.afterRead; split <;> rfl
@[simp] theorem afterRead_cost (a : Word) : (s.afterRead a).cost = s.cost := by unfold State.afterRead; split <;> rfl

theorem afterRead_boot (a : Word) : (s.afterRead a).boot = (s.boot && decide (a ≠ 0x0100)) := by
  unfold State.afterRead; split <;> simp_all

/-- A read changes what another read returns only where it drops the overlay (R74). -/
theorem peek_afterRead {a b : Word} (h : ¬(a = 0x0100 ∧ s.boot = true ∧ b.toNat < 0x100)) :
    (s.afterRead a).peek b = s.peek b := by
  by_cases ha : a = 0x0100
  · refine peek_congr (fun hb => ?_) (by simp) (by simp) (by simp) (fun _ => ?_) (by simp)
    · rw [afterRead_boot]
      cases hs : s.boot
      · rfl
      · exact absurd ⟨ha, hs, hb⟩ h
    · unfold State.readIo; simp only [afterRead_timer, afterRead_ppu, afterRead_joypad, afterRead_iflag]
  · rw [afterRead_ne s ha]

/-! ### The bulk transfer (R90) -/

/-- What each byte of the transfer keeps. -/
def sameButRam (s t : State) : Prop := t = { s with ram := t.ram, boot := t.boot }

theorem transferByte_sameButRam (v : Byte) (i : Nat) : sameButRam s (s.transferByte v i) := by
  unfold sameButRam State.transferByte State.readByte State.afterRead
  split <;> rfl

theorem sameButRam_trans {s t u : State} (h : sameButRam s t) (h' : sameButRam t u) : sameButRam s u := by
  unfold sameButRam at *; rw [h', h]

theorem foldl_transferByte_sameButRam (v : Byte) (l : List Nat) : sameButRam s (l.foldl (State.transferByte v) s) := by
  induction l generalizing s with
  | nil => rfl
  | cons i l ih => exact sameButRam_trans (transferByte_sameButRam s v i) (ih _)

theorem bulkTransfer_sameButRam (v : Byte) : sameButRam s (s.bulkTransfer v) := foldl_transferByte_sameButRam s v _

theorem bulkTransfer_eq (v : Byte) :
    s.bulkTransfer v = { s with ram := (s.bulkTransfer v).ram, boot := (s.bulkTransfer v).boot } :=
  bulkTransfer_sameButRam s v

/-- Outside the object attribute memory the transfer leaves the RAM as it was. -/
theorem foldl_transferByte_ram_ne (v : Byte) (l : List Nat) {k : Nat} (h : ∀ i ∈ l, k ≠ oamAddr i) :
    (l.foldl (State.transferByte v) s).ram.read k = s.ram.read k := by
  induction l generalizing s with
  | nil => rfl
  | cons i l ih =>
    simp only [List.mem_cons, forall_eq_or_imp] at h
    rw [List.foldl_cons, ih _ h.2]
    simp only [State.transferByte, readByte_snd, State.writeRam_ram, afterRead_ram]
    exact lookup_update_ne _ _ h.1

theorem transferSource_toNat (v : Byte) {i : Nat} (h : i < 160) : (transferSource v i).toNat = 256 * v.toNat + i := by
  have h1 : (word v 0x00).toNat = 256 * v.toNat := by
    unfold word
    rw [BitVec.toNat_append]
    simp [Nat.shiftLeft_eq, Nat.mul_comm]
  have := v.isLt
  unfold transferSource
  rw [BitVec.toNat_add, h1, BitVec.toNat_ofNat]
  omega

theorem transferSource_eq_0100 (v : Byte) {i : Nat} (h : i < 160) : transferSource v i = 0x0100 ↔ v = 0x01 ∧ i = 0 := by
  have := v.isLt
  rw [← BitVec.toNat_inj, ← BitVec.toNat_inj, transferSource_toNat v h, show (0x0100 : Word).toNat = 256 from rfl,
    show (0x01 : Byte).toNat = 1 from rfl]
  omega

theorem foldl_transferByte_boot (v : Byte) (l : List Nat) (h : ∀ i ∈ l, i < 160) :
    (l.foldl (State.transferByte v) s).boot = (s.boot && !(decide (v = 0x01) && decide (0 ∈ l))) := by
  induction l generalizing s with
  | nil => simp
  | cons i l ih =>
    simp only [List.mem_cons, forall_eq_or_imp] at h
    rw [List.foldl_cons, ih _ h.2]
    have hi : (s.transferByte v i).boot = (s.boot && !(decide (v = 0x01 ∧ i = 0))) := by
      rw [← decide_not, ← decide_eq_decide.2 (not_congr (transferSource_eq_0100 v h.1))]
      exact afterRead_boot s _
    rw [hi]
    by_cases hv : v = 0x01 <;> by_cases hi : i = 0
    · subst hi; simp only [hv, true_and, List.mem_cons, true_or, decide_true]; cases s.boot <;> rfl
    · have : (0 ∈ i :: l) ↔ 0 ∈ l := by simp [eq_comm, hi]
      simp only [hi, and_false, this, decide_false, Bool.not_false, Bool.and_true]
    · simp only [hv, false_and, decide_false, Bool.false_and, Bool.not_false, Bool.and_true]
    · simp only [hv, false_and, decide_false, Bool.false_and, Bool.not_false, Bool.and_true]

/-- The transfer clears `boot` exactly where its source page is 0x01 (R90). -/
theorem bulkTransfer_boot (v : Byte) : (s.bulkTransfer v).boot = (s.boot && decide (v ≠ 0x01)) := by
  rw [State.bulkTransfer, foldl_transferByte_boot s v _ fun i hi => List.mem_range.1 hi]
  simp only [List.mem_range, Nat.zero_lt_succ, decide_true, Bool.and_true, ne_eq, decide_not]

/-! ### `WriteByte`: the fields it never changes -/

theorem writeIo_keeps (r : IoReg) (v : Byte) :
    let t := s.writeIo r v
    t.regs = s.regs ∧ t.ime = s.ime ∧ t.ie = s.ie ∧ t.halted = s.halted ∧ t.rom = s.rom ∧ t.bootRom = s.bootRom ∧
    t.diags = s.diags ∧ t.cost = s.cost ∧ t.timer.tsub = s.timer.tsub ∧ t.timer.tacc = s.timer.tacc ∧
    t.timer.traw = s.timer.traw ∧ t.ppu.mode = s.ppu.mode ∧ t.ppu.ly = s.ppu.ly ∧ t.ppu.pcnt = s.ppu.pcnt ∧
    t.ppu.pix = s.ppu.pix ∧ t.joypad.buttons = s.joypad.buttons := by
  cases r
  case dma =>
    simp only [State.writeIo]
    rw [bulkTransfer_eq]
    exact ⟨rfl, rfl, rfl, rfl, rfl, rfl, rfl, rfl, rfl, rfl, rfl, rfl, rfl, rfl, rfl, rfl⟩
  all_goals exact ⟨rfl, rfl, rfl, rfl, rfl, rfl, rfl, rfl, rfl, rfl, rfl, rfl, rfl, rfl, rfl, rfl⟩

theorem writeByte_keeps (a : Word) (v : Byte) :
    let t := s.writeByte a v
    t.regs = s.regs ∧ t.ime = s.ime ∧ t.halted = s.halted ∧ t.rom = s.rom ∧ t.bootRom = s.bootRom ∧
    t.diags = s.diags ∧ t.cost = s.cost ∧ t.timer.tsub = s.timer.tsub ∧ t.timer.tacc = s.timer.tacc ∧
    t.timer.traw = s.timer.traw ∧ t.ppu.mode = s.ppu.mode ∧ t.ppu.ly = s.ppu.ly ∧ t.ppu.pcnt = s.ppu.pcnt ∧
    t.ppu.pix = s.ppu.pix ∧ t.joypad.buttons = s.joypad.buttons := by
  obtain ⟨h1, h2, -, h4, h5, h6, h7, h8, h9, h10, h11, h12, h13, h14, h15, h16⟩ := writeIo_keeps s (ioRegAt a) v
  unfold State.writeByte
  split
  case h_9 => exact ⟨h1, h2, h4, h5, h6, h7, h8, h9, h10, h11, h12, h13, h14, h15, h16⟩
  all_goals exact ⟨rfl, rfl, rfl, rfl, rfl, rfl, rfl, rfl, rfl, rfl, rfl, rfl, rfl, rfl, rfl⟩

@[simp] theorem writeByte_regs (a : Word) (v : Byte) : (s.writeByte a v).regs = s.regs := (writeByte_keeps s a v).1
@[simp] theorem writeByte_ime (a : Word) (v : Byte) : (s.writeByte a v).ime = s.ime := (writeByte_keeps s a v).2.1
@[simp] theorem writeByte_halted (a : Word) (v : Byte) : (s.writeByte a v).halted = s.halted :=
  (writeByte_keeps s a v).2.2.1
@[simp] theorem writeByte_rom (a : Word) (v : Byte) : (s.writeByte a v).rom = s.rom := (writeByte_keeps s a v).2.2.2.1
@[simp] theorem writeByte_bootRom (a : Word) (v : Byte) : (s.writeByte a v).bootRom = s.bootRom :=
  (writeByte_keeps s a v).2.2.2.2.1
@[simp] theorem writeByte_diags (a : Word) (v : Byte) : (s.writeByte a v).diags = s.diags :=
  (writeByte_keeps s a v).2.2.2.2.2.1
@[simp] theorem writeByte_cost (a : Word) (v : Byte) : (s.writeByte a v).cost = s.cost :=
  (writeByte_keeps s a v).2.2.2.2.2.2.1
@[simp] theorem writeByte_tsub (a : Word) (v : Byte) : (s.writeByte a v).timer.tsub = s.timer.tsub :=
  (writeByte_keeps s a v).2.2.2.2.2.2.2.1
@[simp] theorem writeByte_tacc (a : Word) (v : Byte) : (s.writeByte a v).timer.tacc = s.timer.tacc :=
  (writeByte_keeps s a v).2.2.2.2.2.2.2.2.1
@[simp] theorem writeByte_traw (a : Word) (v : Byte) : (s.writeByte a v).timer.traw = s.timer.traw :=
  (writeByte_keeps s a v).2.2.2.2.2.2.2.2.2.1
@[simp] theorem writeByte_mode (a : Word) (v : Byte) : (s.writeByte a v).ppu.mode = s.ppu.mode :=
  (writeByte_keeps s a v).2.2.2.2.2.2.2.2.2.2.1
@[simp] theorem writeByte_ly (a : Word) (v : Byte) : (s.writeByte a v).ppu.ly = s.ppu.ly :=
  (writeByte_keeps s a v).2.2.2.2.2.2.2.2.2.2.2.1
@[simp] theorem writeByte_pcnt (a : Word) (v : Byte) : (s.writeByte a v).ppu.pcnt = s.ppu.pcnt :=
  (writeByte_keeps s a v).2.2.2.2.2.2.2.2.2.2.2.2.1
@[simp] theorem writeByte_pix (a : Word) (v : Byte) : (s.writeByte a v).ppu.pix = s.ppu.pix :=
  (writeByte_keeps s a v).2.2.2.2.2.2.2.2.2.2.2.2.2.1
@[simp] theorem writeByte_buttons (a : Word) (v : Byte) : (s.writeByte a v).joypad.buttons = s.joypad.buttons :=
  (writeByte_keeps s a v).2.2.2.2.2.2.2.2.2.2.2.2.2.2

/-! ### `WriteByte`: `boot`, and which readings change -/

theorem ioOffset {a : Word} (h : 0xFF00 ≤ a.toNat) : (a - 0xFF00).toNat = a.toNat - 0xFF00 := by
  rw [BitVec.toNat_sub, show (0xFF00 : Word).toNat = 0xFF00 from rfl]
  have := a.isLt
  omega

theorem ioRegAt_dma {a : Word} (h : regionOf a = .io) : ioRegAt a = .dma ↔ a = 0xFF46 := by
  have h := (regionOf_io a).1 h
  unfold ioRegAt ioReg
  rw [ioOffset h.1, ← BitVec.toNat_inj]
  rw [show (0xFF46 : Word).toNat = 0xFF46 from rfl]
  constructor
  · intro h'
    split at h' <;> first | omega | exact absurd h' (by decide)
  · intro h'; rw [show a.toNat - 0xFF00 = 0x46 by omega]; rfl

theorem writeIo_boot (r : IoReg) (v : Byte) :
    (s.writeIo r v).boot = (s.boot && !(decide (r = .dma) && decide (v = 0x01))) := by
  cases r
  case dma => simp [State.writeIo, bulkTransfer_boot]
  all_goals simp [State.writeIo]

/-- A write clears `boot` only as a bulk transfer from page 0x01 (R89, R90). -/
theorem writeByte_boot (a : Word) (v : Byte) :
    (s.writeByte a v).boot = (s.boot && !(decide (a = 0xFF46) && decide (v = 0x01))) := by
  by_cases hio : regionOf a = .io
  · simp only [State.writeByte, hio, writeIo_boot, ioRegAt_dma hio]
  · have ha : a ≠ 0xFF46 := fun h => hio (by rw [h, regionOf_io]; decide)
    simp only [decide_eq_false ha, Bool.false_and, Bool.not_false, Bool.and_true]
    unfold State.writeByte
    split <;> first | rfl | simp_all

/-- The offset that each mapped register of the window stands at (R82). -/
theorem ioReg_inj {i j : Nat} (h : ioReg i = ioReg j) (hm : ioReg i ≠ .unmapped) : i = j := by
  unfold ioReg at h hm
  split at h <;> split at h <;> simp_all

/-- Writing one register of the window changes no other register's reading, but for the bulk transfer (which changes none) and for
`LYC`, which `STAT` compares with. -/
theorem readIo_writeIo_ne {r r' : IoReg} (v : Byte) (h : r' ≠ r) (hs : ¬(r = .lyc ∧ r' = .stat)) :
    (s.writeIo r v).readIo r' = s.readIo r' := by
  cases r
  case dma =>
    simp only [State.writeIo]
    rw [bulkTransfer_eq]
    cases r' <;> rfl
  all_goals cases r' <;> first | rfl | exact absurd rfl h | exact absurd ⟨rfl, rfl⟩ hs

theorem writeIo_ram (r : IoReg) (v : Byte) {k : Nat} (h : r = .dma → k < 0xFE00 ∨ 0xFEA0 ≤ k) :
    (s.writeIo r v).ram.read k = s.ram.read k := by
  cases r
  case dma =>
    refine foldl_transferByte_ram_ne s v _ fun i hi => ?_
    have := h rfl
    simp only [List.mem_range] at hi
    unfold oamAddr
    omega
  all_goals rfl

/-- A store changes no reading but those of `storeTouches` (R89). -/
theorem peek_writeByte {a b : Word} {v : Byte} (h : ¬storeTouches s.boot a v b) : (s.writeByte a v).peek b = s.peek b := by
  unfold storeTouches at h
  simp only [not_or, not_and] at h
  obtain ⟨hba, hoam, hboot, hlyc⟩ := h
  have hnat : b.toNat ≠ a.toNat := fun h => hba (BitVec.toNat_inj.1 h)
  refine peek_congr (fun hb => ?_) (by simp) (by simp) (fun hb => ?_) (fun hb => ?_) (fun hb => ?_)
  · rw [writeByte_boot]
    cases hs : s.boot
    · rfl
    · have : ¬(a = 0xFF46 ∧ v = 0x01) := fun ⟨ha, hv⟩ => hboot ha hv hs hb
      rw [← Bool.decide_and, decide_eq_false this]; rfl
  · unfold State.writeByte
    split
    case h_9 hio =>
      refine writeIo_ram s _ v fun hd => ?_
      have := hoam ((ioRegAt_dma hio).1 hd)
      omega
    all_goals first | rfl | exact lookup_update_ne _ _ hnat
  · unfold State.writeByte
    split
    case h_9 hio =>
      by_cases hreg : ioRegAt b = ioRegAt a
      · by_cases hm : ioRegAt a = .unmapped
        · rw [hm]; rfl
        · refine absurd ?_ hnat
          have := ioReg_inj hreg (by rw [← ioRegAt, hreg]; exact hm)
          have h1 := (regionOf_io a).1 hio
          have h2 := (regionOf_io b).1 hb
          rw [ioOffset h1.1, ioOffset h2.1] at this
          omega
      · refine readIo_writeIo_ne s v hreg fun ⟨h1, h2⟩ => ?_
        have e1 : a.toNat = 0xFF45 := by
          have := (regionOf_io a).1 hio
          unfold ioRegAt at h1
          rw [ioOffset (by omega)] at h1
          have := ioReg_inj (i := a.toNat - 0xFF00) (j := 0x45) (by rw [h1]; rfl) (by rw [h1]; simp)
          omega
        have e2 : b.toNat = 0xFF41 := by
          have := (regionOf_io b).1 hb
          unfold ioRegAt at h2
          rw [ioOffset (by omega)] at h2
          have := ioReg_inj (i := b.toNat - 0xFF00) (j := 0x41) (by rw [h2]; rfl) (by rw [h2]; simp)
          omega
        exact hlyc (BitVec.toNat_inj.1 e1) (BitVec.toNat_inj.1 e2)
    all_goals cases ioRegAt b <;> rfl
  · unfold State.writeByte
    split
    case h_9 => exact (writeIo_keeps s _ v).2.2.1
    case h_11 h' => exact absurd (hb.trans ((regionOf_ie a).1 h').symm) hnat
    all_goals rfl

/-! ### Reading back -/

/-- What is written in plain storage is read back (R76 to R78, R80, R83). -/
theorem peek_writeByte_self (hw : s.ram.wf) {a : Word} (ha : RamAddr a.toNat) (v : Byte) : (s.writeByte a v).peek a = v := by
  rw [writeByte_ram s ha, peek_ram _ ha]
  exact lookup_update_self hw _ v

theorem writeByte_ram_of_not_dma {a : Word} (ha : ¬RamAddr a.toNat) (hd : a ≠ 0xFF46) (v : Byte) :
    (s.writeByte a v).ram = s.ram := by
  unfold State.writeByte
  have hr := ha
  rw [ramAddr_iff] at hr
  split <;> first | rfl | simp_all
  case h_9 h =>
    cases hreg : ioRegAt a
    case dma => exact absurd ((ioRegAt_dma h).1 hreg) hd
    all_goals rfl

/-! ### The memories stay canonical -/

theorem write_wf {m : Memory} (h : m.wf) (k : Nat) (v : Byte) : (m.write k v).wf := update_canonical h k v

theorem mem_write {m : Memory} {k : Nat} {v : Byte} {c : Host.Cell} (h : c ∈ (m.write k v).cells) : c = (k, v) ∨ c ∈ m.cells :=
  mem_update h

theorem memInv_writeRam {s : State} (h : s.MemInv) {k : Nat} (hk : RamAddr k) (v : Byte) : (s.writeRam k v).MemInv := by
  obtain ⟨h1, h2, h3⟩ := h
  refine ⟨write_wf h1 k v, fun c hc => ?_, h3⟩
  rcases mem_write hc with rfl | hc
  · exact hk
  · exact h2 c hc

theorem memInv_congr {s t : State} (h : s.MemInv) (hram : t.ram = s.ram) (hrom : t.rom = s.rom) (hb : t.bootRom = s.bootRom) :
    t.MemInv := by
  unfold State.MemInv at *; rw [hram, hrom, hb]; exact h

theorem memInv_afterRead {s : State} (h : s.MemInv) (a : Word) : (s.afterRead a).MemInv := memInv_congr h (by simp) (by simp) (by simp)

theorem memInv_bulkTransfer {s : State} (h : s.MemInv) (v : Byte) : (s.bulkTransfer v).MemInv := by
  unfold State.bulkTransfer
  have hl : ∀ i ∈ List.range 160, i < 160 := by simp
  generalize List.range 160 = l at hl
  induction l generalizing s with
  | nil => exact h
  | cons i l ih =>
    simp only [List.mem_cons, forall_eq_or_imp] at hl
    rw [List.foldl_cons]
    refine ih ?_ hl.2
    refine memInv_writeRam (memInv_afterRead h _) ?_ _
    unfold RamAddr oamAddr
    omega

theorem memInv_writeByte {s : State} (h : s.MemInv) (a : Word) (v : Byte) : (s.writeByte a v).MemInv := by
  by_cases ha : RamAddr a.toNat
  · rw [writeByte_ram s ha]; exact memInv_writeRam h ha v
  · by_cases hd : a = 0xFF46
    · have hio : regionOf a = .io := by rw [hd, regionOf_io]; decide
      simp only [State.writeByte, hio, (ioRegAt_dma hio).2 hd, State.writeIo]
      exact memInv_bulkTransfer h v
    · exact memInv_congr h (writeByte_ram_of_not_dma s ha hd v) (by simp) (by simp)

/-! ### Reads and writes do not look at the registers and the latches -/

/-- The state with other registers, `IME` and `halted`. -/
def State.withCpu (g : Regs) (i h : Bool) : State := { s with regs := g, ime := i, halted := h }

theorem afterRead_withCpu (g : Regs) (i h : Bool) (a : Word) :
    (s.withCpu g i h).afterRead a = (s.afterRead a).withCpu g i h := by
  unfold State.afterRead; split <;> rfl

theorem foldl_transferByte_withCpu (v : Byte) (l : List Nat) (g : Regs) (i h : Bool) :
    l.foldl (State.transferByte v) (s.withCpu g i h) = (l.foldl (State.transferByte v) s).withCpu g i h := by
  induction l generalizing s with
  | nil => rfl
  | cons k l ih =>
    have hk : State.transferByte v (s.withCpu g i h) k = (State.transferByte v s k).withCpu g i h := by
      unfold State.transferByte
      simp only [readByte_snd, readByte_fst, afterRead_withCpu]
      rw [peek_same (s := s) _ rfl rfl rfl rfl rfl rfl rfl rfl rfl]; rfl
    rw [List.foldl_cons, List.foldl_cons, hk, ih]

/-- A write may be done before or after an update of the registers and the latches. -/
theorem writeByte_withCpu (g : Regs) (i h : Bool) (a : Word) (v : Byte) :
    (s.withCpu g i h).writeByte a v = (s.writeByte a v).withCpu g i h := by
  unfold State.writeByte
  cases regionOf a <;> try rfl
  simp only [State.writeIo]
  cases ioRegAt a <;> try rfl
  exact foldl_transferByte_withCpu s v _ g i h

/-! ### Words (R85) -/

theorem writeWord_withCpu (g : Regs) (i h : Bool) (a w : Word) :
    (s.withCpu g i h).writeWord a w = (s.writeWord a w).withCpu g i h := by
  unfold State.writeWord
  rw [writeByte_withCpu, writeByte_withCpu]

@[simp] theorem peek_withCpu (g : Regs) (i h : Bool) (b : Word) : (s.withCpu g i h).peek b = s.peek b :=
  peek_same b rfl rfl rfl rfl rfl rfl rfl rfl rfl


theorem readWord_fst (a : Word) : (s.readWord a).1 = word ((s.afterRead a).peek (a + 1)) (s.peek a) := rfl
theorem readWord_snd (a : Word) : (s.readWord a).2 = (s.afterRead a).afterRead (a + 1) := rfl

theorem memInv_writeWord {s : State} (h : s.MemInv) (a w : Word) : (s.writeWord a w).MemInv :=
  memInv_writeByte (memInv_writeByte h _ _) _ _

/-- A step to the next address is another address. -/
theorem succ_ne (a : Word) : a + 1 ≠ a := by
  intro h
  have h := congrArg BitVec.toNat h
  rw [BitVec.toNat_add, show (1 : Word).toNat = 1 from rfl] at h
  have := a.isLt
  omega

/-- A word store leaves two bytes of plain storage to be read, the low byte at the lower address (R85, R86). -/
theorem peek_writeWord (hw : s.MemInv) {a : Word} (ha : RamAddr a.toNat) (ha' : RamAddr (a + 1).toNat) (w : Word) :
    (s.writeWord a w).peek a = lo w ∧ (s.writeWord a w).peek (a + 1) = hi w := by
  have hne := succ_ne a
  constructor
  · unfold State.writeWord
    rw [peek_writeByte]
    · exact peek_writeByte_self s hw.1 ha _
    · intro h
      rcases h with h | ⟨h, -⟩ | ⟨h, -⟩ | ⟨h, -⟩
      · exact hne h.symm
      all_goals (rw [h] at ha'; revert ha'; decide)
  · exact peek_writeByte_self _ (memInv_writeByte hw _ _).1 ha' _

end Sys2Proof.Machine
end

