-- ==== Sys2Proof/Laws/Devices.lean ====
section
/-! SUPPORT. What the timer and the PPU can change, said once, and that they keep the ranges of their counters. -/

namespace Sys2Proof.Machine

variable (s : State)

/-! ### `raiseIf` -/

theorem raiseIf_eq (b : Bool) (i : Interrupt) : s.raiseIf b i = { s with iflag := (s.raiseIf b i).iflag } := by
  cases b <;> rfl

@[simp] theorem raiseIf_ppu (b : Bool) (i : Interrupt) : (s.raiseIf b i).ppu = s.ppu := by cases b <;> rfl
@[simp] theorem raiseIf_timer (b : Bool) (i : Interrupt) : (s.raiseIf b i).timer = s.timer := by cases b <;> rfl
@[simp] theorem raiseIf_ram (b : Bool) (i : Interrupt) : (s.raiseIf b i).ram = s.ram := by cases b <;> rfl
@[simp] theorem raiseIf_cost (b : Bool) (i : Interrupt) : (s.raiseIf b i).cost = s.cost := by cases b <;> rfl
theorem raiseIf_iflag (b : Bool) (i : Interrupt) : (s.raiseIf b i).iflag = if b then s.iflag ||| i.mask else s.iflag := by
  cases b <;> rfl

@[simp] theorem lycCheck_ppu : s.lycCheck.ppu = s.ppu := raiseIf_ppu s _ _

/-! ### The timer -/

/-- The timer changes its own fields and `IF`, nothing else (R330). -/
theorem timerTick_eq (c : Nat) : s.timerTick c = { s with timer := (s.timerTick c).timer, iflag := (s.timerTick c).iflag } := by
  induction c generalizing s with
  | zero => rfl
  | succ c ih =>
    rw [State.timerTick, ih]
    unfold State.timerUnit
    rw [raiseIf_eq]

theorem timer_unit_inv {s : State} (h : s.TimerInv) : s.timerUnit.TimerInv := by
  obtain ⟨h1, h2, h3⟩ := h
  unfold State.TimerInv State.timerUnit
  simp only [raiseIf_timer]
  have ht : ∀ x, Config.timerThreshold x ≤ 64 := by decide
  have hd : s.timer.advanceDivider.tsub < Config.timerDivPeriod ∧ s.timer.advanceDivider.tacc = s.timer.tacc := by
    unfold Timer.advanceDivider Config.timerDivPeriod
    split
    · exact ⟨by simp, rfl⟩
    · exact ⟨by simp only [Config.timerDivPeriod] at *; omega, rfl⟩
  have hc : ∀ t : Timer, t.tsub < Config.timerDivPeriod → t.tacc < 64 → t.traw < Config.timerUnitsPerSub →
      t.advanceCounter.1.tsub < Config.timerDivPeriod ∧ t.advanceCounter.1.tacc < 64 ∧
      t.advanceCounter.1.traw < Config.timerUnitsPerSub := by
    intro t k1 k2 k3
    unfold Timer.advanceCounter
    split
    · split
      · split <;> exact ⟨k1, by simp, k3⟩
      · have := ht (t.tac.extractLsb' 0 2)
        unfold Timer.threshold at *
        exact ⟨k1, by simp only; omega, k3⟩
    · exact ⟨k1, k2, k3⟩
  unfold Timer.unit
  split
  · refine hc _ ?_ ?_ ?_
    · unfold Timer.advanceDivider Config.timerDivPeriod
      unfold Config.timerDivPeriod at h1
      split
      · simp
      · simp only at *; omega
    · unfold Timer.advanceDivider; split <;> exact h2
    · unfold Timer.advanceDivider; split <;> simp [Config.timerUnitsPerSub]
  · refine ⟨h1, h2, ?_⟩
    simp only
    omega

theorem timerTick_inv {s : State} (h : s.TimerInv) (c : Nat) : (s.timerTick c).TimerInv := by
  induction c generalizing s with
  | zero => exact h
  | succ c ih => exact ih (timer_unit_inv h)

/-! ### The render -/

theorem drawSpritePixel_length (y : Nat) (o : Sprite) (row : List Shade) (j : Nat) :
    (s.drawSpritePixel y o row j).length = row.length := by
  unfold State.drawSpritePixel
  simp only
  split <;> simp

theorem drawSprite_length (y : Nat) (row : List Shade) (o : Sprite) : (s.drawSprite y row o).length = row.length := by
  unfold State.drawSprite
  induction List.range 8 generalizing row with
  | nil => rfl
  | cons j l ih => rw [List.foldl_cons, ih, drawSpritePixel_length]

/-- A rendered line has 160 cells (R356). -/
theorem lineOf_length (y : Nat) : (s.lineOf y).length = 160 := by
  have hb : (s.backgroundRow y).length = 160 := by simp [State.backgroundRow]
  unfold State.lineOf
  split
  · generalize s.backgroundRow y = row at hb
    induction s.spritesOf y generalizing row with
    | nil => exact hb
    | cons o l ih => exact ih _ (by rw [drawSprite_length, hb])
  · exact hb

theorem setRow_wf {p : PixelBuffer} (h : p.wf) {y : Nat} (hy : y < 144) {row : List Shade} (hr : row.length = 160) :
    (p.setRow y row).wf := by
  refine ⟨update_canonical h.1 y row, fun r hm => ?_⟩
  rcases mem_update hm with rfl | hm
  · exact ⟨hy, hr⟩
  · exact h.2 r hm

/-- A render writes its own row and no other (R356). -/
theorem renderLine_row (hp : s.ppu.pix.wf) (y y' : Nat) :
    (s.renderLine y).ppu.pix.row y' = if y' = y then s.lineOf y else s.ppu.pix.row y' :=
  lookup_update hp.1 y y' _

/-! ### The sprites of a line -/

theorem mem_insertSprite {o q : Sprite} {l : List Sprite} : q ∈ insertSprite o l ↔ q = o ∨ q ∈ l := by
  induction l with
  | nil => simp [insertSprite]
  | cons p l ih =>
    unfold insertSprite
    split
    · simp
    · simp only [List.mem_cons, ih]; tauto

theorem mem_foldr_insertSprite {q : Sprite} {l : List Sprite} : q ∈ l.foldr insertSprite [] ↔ q ∈ l := by
  induction l with
  | nil => simp
  | cons p l ih => rw [List.foldr_cons, mem_insertSprite, ih, List.mem_cons]

/-- Which of the numbers below `n` the first `m` that meet `p` are: those below which fewer than `m` meet it. -/
theorem mem_take_filter_range (p : Nat → Bool) (n m k : Nat) :
    k ∈ ((List.range n).filter p).take m ↔ k < n ∧ p k = true ∧ ((List.range k).filter p).length < m := by
  induction n with
  | zero => simp
  | succ n ih =>
    rw [List.range_succ, List.filter_append, List.take_append, List.mem_append, ih]
    have last : k ∈ (List.filter p [n]).take (m - ((List.range n).filter p).length) ↔
        k = n ∧ p n = true ∧ ((List.range n).filter p).length < m := by
      by_cases hp : p n = true
      · rw [List.filter_cons_of_pos hp, List.filter_nil]
        by_cases hm : ((List.range n).filter p).length < m
        · obtain ⟨d, hd⟩ : ∃ d, m - ((List.range n).filter p).length = d + 1 := ⟨_, (Nat.succ_pred (by omega)).symm⟩
          rw [hd, List.take_succ_cons, List.take_nil, List.mem_singleton]
          exact ⟨fun h => ⟨h, hp, hm⟩, fun h => h.1⟩
        · rw [show m - ((List.range n).filter p).length = 0 by omega, List.take_zero]
          exact ⟨fun h => absurd h List.not_mem_nil, fun h => absurd h.2.2 hm⟩
      · rw [List.filter_cons_of_neg hp, List.filter_nil, List.take_nil]
        exact ⟨fun h => absurd h List.not_mem_nil, fun h => absurd h.2.1 hp⟩
    rw [last]
    constructor
    · rintro (⟨h1, h2⟩ | ⟨rfl, h2⟩)
      · exact ⟨by omega, h2⟩
      · exact ⟨by omega, h2⟩
    · rintro ⟨h1, h2⟩
      rcases Nat.lt_succ_iff_lt_or_eq.1 h1 with h | rfl
      · exact .inl ⟨h, h2⟩
      · exact .inr ⟨rfl, h2⟩

/-- The sprites drawn on a line are the entries selected for it, no more and no less (R361). -/
theorem mem_spritesOf (y : Nat) (o : Sprite) : o ∈ s.spritesOf y ↔ ∃ k, s.Selected y k ∧ o = s.sprite k := by
  have covers : ∀ k, ((fun o : Sprite => o.covers (spriteHeight s.ppu.lcdc) y) ∘ s.sprite) k = decide (s.Covers y k) := by
    intro k
    have height : ((spriteHeight s.ppu.lcdc : Nat) : Int) = if s.ppu.lcdc.getLsbD 2 then 16 else 8 := by
      unfold spriteHeight bit; split <;> rfl
    simp only [Function.comp, Sprite.covers, State.Covers, height, Bool.decide_and]
  unfold State.spritesOf
  simp only [mem_foldr_insertSprite, List.filter_map, ← List.map_take, List.mem_map, mem_take_filter_range, funext covers,
    decide_eq_true_eq]
  exact ⟨fun ⟨k, h, e⟩ => ⟨k, h, e.symm⟩, fun ⟨k, h, e⟩ => ⟨k, h, e.symm⟩⟩

/-! ### The PPU -/

/-- The PPU changes its own fields and `IF`, nothing else (R340). -/
def ppuOnly (s t : State) : Prop := t = { s with ppu := t.ppu, iflag := t.iflag }

theorem ppuOnly_refl : ppuOnly s s := rfl

theorem ppuOnly_trans {s t u : State} (h : ppuOnly s t) (h' : ppuOnly t u) : ppuOnly s u := by
  unfold ppuOnly at *; rw [h', h]

theorem ppuOnly_raiseIf (b : Bool) (i : Interrupt) : ppuOnly s (s.raiseIf b i) := by cases b <;> rfl

theorem ppuTransition_ppuOnly : ppuOnly s s.ppuTransition := by
  unfold State.ppuTransition
  split
  · exact ppuOnly_trans (t := (s.setPcnt 0).setMode .pixelTransfer) rfl (ppuOnly_raiseIf _ _ _)
  · exact ppuOnly_trans (t := (((s.setPcnt 0).setMode .hblank).renderLine s.ppu.ly.toNat)) rfl
      (ppuOnly_trans (ppuOnly_raiseIf _ _ _) (ppuOnly_raiseIf _ _ _))
  · refine ppuOnly_trans ?_ (ppuOnly_raiseIf _ _ _)
    split
    · exact ppuOnly_trans (t := ((((s.setPcnt 0).setLy (s.ppu.ly + 1)).setMode .vblank).raise .vblank)) rfl
        (ppuOnly_raiseIf _ _ _)
    · exact ppuOnly_trans (t := (((s.setPcnt 0).setLy (s.ppu.ly + 1)).setMode .oamScan)) rfl (ppuOnly_raiseIf _ _ _)
  · refine ppuOnly_trans ?_ (ppuOnly_raiseIf _ _ _)
    split
    · exact ppuOnly_trans (t := (((((s.setPcnt 0).setLy (s.ppu.ly + 1)).setLy 0).setMode .oamScan))) rfl
        (ppuOnly_raiseIf _ _ _)
    · rfl

theorem ppuAdvance_ppuOnly (c : Nat) : ppuOnly s (s.ppuAdvance c) := by
  unfold State.ppuAdvance
  simp only
  split
  · exact ppuOnly_trans (t := s.setPcnt (s.ppu.pcnt + c)) rfl (ppuTransition_ppuOnly _)
  · rfl

theorem ppuAdvance_eq (c : Nat) :
    s.ppuAdvance c = { s with ppu := (s.ppuAdvance c).ppu, iflag := (s.ppuAdvance c).iflag } := ppuAdvance_ppuOnly s c

theorem PpuMode.units_pos (m : PpuMode) : 0 < m.units := by cases m <;> decide

/-- The transitions keep the ranges of R34. -/
theorem ppuTransition_inv {s : State} (hm : s.ppu.mode = .vblank ↔ 144 ≤ s.ppu.ly.toNat) (hl : s.ppu.ly.toNat ≤ 153)
    (hp : s.ppu.pix.wf) : s.ppuTransition.PpuInv := by
  have hsucc : (s.ppu.ly + 1).toNat = s.ppu.ly.toNat + 1 := by
    rw [BitVec.toNat_add, show (1 : Byte).toNat = 1 from rfl]; omega
  unfold State.ppuTransition
  split
  case h_1 h =>
    rw [h] at hm
    unfold State.leaveOamScan State.PpuInv
    rw [lycCheck_ppu]
    exact ⟨⟨nofun, fun h' => nomatch hm.2 h'⟩, hl, PpuMode.units_pos _, hp⟩
  case h_2 h =>
    rw [h] at hm
    have hlt : s.ppu.ly.toNat < 144 := by
      by_contra h'
      exact nomatch hm.2 (by omega)
    unfold State.leavePixelTransfer State.PpuInv
    simp only [lycCheck_ppu, raiseIf_ppu]
    exact ⟨⟨nofun, fun h' => absurd h' (by simp only [State.renderLine, State.setMode, State.setPcnt]; omega)⟩, hl,
      PpuMode.units_pos _, setRow_wf hp hlt (lineOf_length _ _)⟩
  case h_3 h =>
    rw [h] at hm
    have hlt : s.ppu.ly.toNat < 144 := by
      by_contra h'
      exact nomatch hm.2 (by omega)
    unfold State.leaveHblank State.PpuInv
    simp only [lycCheck_ppu]
    have hne : s.ppu.ly + 1 = 144 ↔ s.ppu.ly.toNat + 1 = 144 := by
      rw [← hsucc, ← BitVec.toNat_inj, show (144 : Byte).toNat = 144 from rfl]
    split
    case isTrue h144 =>
      have h144 := hne.1 h144
      simp only [raiseIf_ppu, State.raise_ppu]
      refine ⟨⟨fun _ => ?_, fun _ => rfl⟩, ?_, PpuMode.units_pos _, hp⟩ <;>
        simp only [State.setMode, State.setLy, hsucc] <;> omega
    case isFalse h144 =>
      have h144 : ¬s.ppu.ly.toNat + 1 = 144 := fun h' => h144 (hne.2 h')
      simp only [raiseIf_ppu]
      refine ⟨⟨nofun, fun h' => absurd h' ?_⟩, ?_, PpuMode.units_pos _, hp⟩ <;>
        simp only [State.setMode, State.setLy, hsucc] <;> omega
  case h_4 h =>
    have hge := hm.1 h
    unfold State.leaveVblankLine State.PpuInv
    simp only [lycCheck_ppu]
    have hgt : (s.ppu.ly + 1 > 153) ↔ s.ppu.ly.toNat + 1 > 153 := by
      rw [← hsucc]; exact Iff.rfl
    split
    case isTrue =>
      simp only [raiseIf_ppu]
      exact ⟨⟨nofun, fun h' => absurd h' (show ¬144 ≤ (0 : Byte).toNat by decide)⟩, Nat.zero_le _, PpuMode.units_pos _, hp⟩
    case isFalse h153 =>
      have h153 : ¬s.ppu.ly.toNat + 1 > 153 := fun h' => h153 (hgt.2 h')
      refine ⟨⟨fun _ => ?_, fun _ => h⟩, ?_, PpuMode.units_pos _, hp⟩ <;>
        simp only [State.setLy, hsucc] <;> omega

theorem ppuAdvance_inv {s : State} (h : s.PpuInv) (c : Nat) : (s.ppuAdvance c).PpuInv := by
  obtain ⟨h1, h2, h3, h4⟩ := h
  unfold State.ppuAdvance
  simp only
  split
  · exact ppuTransition_inv h1 h2 h4
  · exact ⟨h1, h2, Nat.lt_of_not_le ‹_›, h4⟩

/-! ### Both devices (R300 (5), (6)) -/

/-- What the devices leave alone. -/
theorem advanceDevices_eq :
    s.advanceDevices =
      { s with timer := s.advanceDevices.timer, ppu := s.advanceDevices.ppu, iflag := s.advanceDevices.iflag } := by
  unfold State.advanceDevices
  rw [ppuAdvance_eq, timerTick_eq]

@[simp] theorem advanceDevices_regs : s.advanceDevices.regs = s.regs := by rw [advanceDevices_eq]
@[simp] theorem advanceDevices_ime : s.advanceDevices.ime = s.ime := by rw [advanceDevices_eq]
@[simp] theorem advanceDevices_ie : s.advanceDevices.ie = s.ie := by rw [advanceDevices_eq]
@[simp] theorem advanceDevices_halted : s.advanceDevices.halted = s.halted := by rw [advanceDevices_eq]
@[simp] theorem advanceDevices_boot : s.advanceDevices.boot = s.boot := by rw [advanceDevices_eq]
@[simp] theorem advanceDevices_rom : s.advanceDevices.rom = s.rom := by rw [advanceDevices_eq]
@[simp] theorem advanceDevices_bootRom : s.advanceDevices.bootRom = s.bootRom := by rw [advanceDevices_eq]
@[simp] theorem advanceDevices_ram : s.advanceDevices.ram = s.ram := by rw [advanceDevices_eq]
@[simp] theorem advanceDevices_joypad : s.advanceDevices.joypad = s.joypad := by rw [advanceDevices_eq]
@[simp] theorem advanceDevices_diags : s.advanceDevices.diags = s.diags := by rw [advanceDevices_eq]
@[simp] theorem advanceDevices_cost : s.advanceDevices.cost = s.cost := by rw [advanceDevices_eq]

theorem timerInv_congr {s t : State} (h : s.TimerInv) (h1 : t.timer.tsub = s.timer.tsub) (h2 : t.timer.tacc = s.timer.tacc)
    (h3 : t.timer.traw = s.timer.traw) : t.TimerInv := by
  unfold State.TimerInv at *; rw [h1, h2, h3]; exact h

theorem ppuInv_congr {s t : State} (h : s.PpuInv) (h1 : t.ppu.mode = s.ppu.mode) (h2 : t.ppu.ly = s.ppu.ly)
    (h3 : t.ppu.pcnt = s.ppu.pcnt) (h4 : t.ppu.pix = s.ppu.pix) : t.PpuInv := by
  unfold State.PpuInv at *; rw [h1, h2, h3, h4]; exact h

theorem advanceDevices_inv {s : State} (h : s.Inv) : s.advanceDevices.Inv := by
  obtain ⟨hm, hp, ht, hc⟩ := h
  refine ⟨?_, ?_, ?_, by rw [advanceDevices_cost]; exact hc⟩
  · unfold State.MemInv; rw [advanceDevices_ram, advanceDevices_rom, advanceDevices_bootRom]; exact hm
  · unfold State.advanceDevices
    refine ppuAdvance_inv (ppuInv_congr hp ?_ ?_ ?_ ?_) _ <;> rw [timerTick_eq]
  · unfold State.advanceDevices
    have := timerTick_inv ht s.cost
    rw [ppuAdvance_eq]
    exact this

end Sys2Proof.Machine
end

