-- ==== Sys2Proof/Laws/Exec.lean ====
section
/-! SUPPORT. What an instruction can do, said once: every meaning answers a next state that is reached from the one it starts in by
register updates, reads and writes on the bus, and the updates of `IME`, `halted`, the diagnostic stream and the cost. -/

namespace Sys2Proof.Machine

/-- `t` is reached from `s` by the updates that instructions are made of. -/
inductive Evolves (s : State) : State → Prop where
  | refl : Evolves s s
  | regs {t : State} (h : Evolves s t) (g : Regs) : Evolves s { t with regs := g }
  | read {t : State} (h : Evolves s t) (a : Word) : Evolves s (t.afterRead a)
  | write {t : State} (h : Evolves s t) (a : Word) (v : Byte) : Evolves s (t.writeByte a v)
  | ime {t : State} (h : Evolves s t) (b : Bool) : Evolves s { t with ime := b }
  | halted {t : State} (h : Evolves s t) (b : Bool) : Evolves s { t with halted := b }
  | diags {t : State} (h : Evolves s t) (l : List Diagnostic) : Evolves s { t with diags := l }
  | iflag {t : State} (h : Evolves s t) (v : Byte) : Evolves s { t with iflag := v }
  | cost {t : State} (h : Evolves s t) (n : Nat) : Evolves s (t.setCost n)

namespace Evolves

variable {s t : State}

theorem setReg (h : Evolves s t) (r : Reg8) (v : Byte) : Evolves s (t.setReg r v) := h.regs _
theorem setPair (h : Evolves s t) (p : Pair) (w : Word) : Evolves s (t.setPair p w) := h.regs _
theorem setPairQ (h : Evolves s t) (q : PairQ) (w : Word) : Evolves s (t.setPairQ q w) := h.regs _
theorem setFlags (h : Evolves s t) (f : Flags) : Evolves s (t.setFlags f) := h.regs _
theorem setPc (h : Evolves s t) (w : Word) : Evolves s (t.setPc w) := h.regs _
theorem setSp (h : Evolves s t) (w : Word) : Evolves s (t.setSp w) := h.regs _
theorem accumulate (h : Evolves s t) (o : AluOut) : Evolves s (t.accumulate o) := h.regs _
theorem setIme (h : Evolves s t) (b : Bool) : Evolves s (t.setIme b) := h.ime b
theorem setHalted (h : Evolves s t) (b : Bool) : Evolves s (t.setHalted b) := h.halted b
theorem setIf (h : Evolves s t) (v : Byte) : Evolves s (t.setIf v) := h.iflag v
theorem emit (h : Evolves s t) (x : Word) (v : Byte) : Evolves s (t.emit x v) := h.diags _
theorem writeWord (h : Evolves s t) (a w : Word) : Evolves s (t.writeWord a w) := (h.write _ _).write _ _
theorem push16 (h : Evolves s t) (w : Word) : Evolves s (t.push16 w) := (h.setSp _).writeWord _ _
theorem pop16 (h : Evolves s t) : Evolves s t.pop16.2 := ((h.read _).read _).setSp _
theorem fetch8 (h : Evolves s t) : Evolves s t.fetch8.2 := (h.read _).setPc _

theorem fetchInstr (h : Evolves s t) : Evolves s t.fetchInstr.2 := by
  unfold State.fetchInstr
  simp only
  split
  · exact h.fetch8
  · exact h.fetch8.fetch8
  · exact h.fetch8.fetch8.fetch8

theorem takeInterrupt (h : Evolves s t) (i : Interrupt) : Evolves s (t.takeInterrupt i) :=
  ((((h.setIf _).setIme _).push16 _).setPc _).cost _

theorem wake (h : Evolves s t) : Evolves s t.wake := by
  unfold State.wake
  split
  · exact h.setHalted _
  · exact h

/-- The images are never changed (R59, R75). -/
theorem images (h : Evolves s t) : t.rom = s.rom ∧ t.bootRom = s.bootRom := by
  induction h with
  | refl => exact ⟨rfl, rfl⟩
  | read h a ih => simpa using ih
  | write h a v ih => simpa using ih
  | _ => assumption

/-- `boot` is never set (R31). -/
theorem boot (h : Evolves s t) (hb : s.boot = false) : t.boot = false := by
  induction h with
  | refl => exact hb
  | read h a ih => rw [afterRead_boot, ih]; rfl
  | write h a v ih => rw [writeByte_boot, ih]; rfl
  | _ => assumption

/-- No instruction reaches the hidden state of the devices (R56, R92 (4)). -/
theorem hidden (h : Evolves s t) :
    t.timer.tsub = s.timer.tsub ∧ t.timer.tacc = s.timer.tacc ∧ t.timer.traw = s.timer.traw ∧ t.ppu.mode = s.ppu.mode ∧
    t.ppu.ly = s.ppu.ly ∧ t.ppu.pcnt = s.ppu.pcnt ∧ t.ppu.pix = s.ppu.pix ∧ t.joypad.buttons = s.joypad.buttons := by
  induction h with
  | refl => exact ⟨rfl, rfl, rfl, rfl, rfl, rfl, rfl, rfl⟩
  | read h a ih => simpa using ih
  | write h a v ih => simpa using ih
  | _ => assumption

theorem memInv (h : Evolves s t) (hs : s.MemInv) : t.MemInv := by
  induction h with
  | refl => exact hs
  | read h a ih => exact memInv_afterRead ih a
  | write h a v ih => exact memInv_writeByte ih a v
  | _ => assumption

theorem timerInv (h : Evolves s t) (hs : s.TimerInv) : t.TimerInv :=
  timerInv_congr hs h.hidden.1 h.hidden.2.1 h.hidden.2.2.1

theorem ppuInv (h : Evolves s t) (hs : s.PpuInv) : t.PpuInv :=
  ppuInv_congr hs h.hidden.2.2.2.1 h.hidden.2.2.2.2.1 h.hidden.2.2.2.2.2.1 h.hidden.2.2.2.2.2.2.1

end Evolves

/-- `prefixCb o2` is the extended-page instruction that the decoder reads from `o2` (R295). -/
theorem execExtended_eq (o2 : Byte) (s : State) : execExtended o2 s = exec (decodeExtended o2) s := by
  unfold execExtended decodeExtended
  split <;> (try split) <;> simp_all [exec]

/-- What a meaning answers: a next state made of the instruction's updates, with a cost of at most six units (R401). -/
abbrev Answers (s : State) (r : Result) : Prop := ∃ t, r = .next t ∧ Evolves s t ∧ t.cost ≤ 6

theorem answers_done {s t : State} {n : Nat} (h : Evolves s t) (hn : n ≤ 6 := by decide) : Answers s (done n t) :=
  ⟨_, rfl, h.cost n, hn⟩

/-- Every instruction answers a next state (R311: there are no synchronous exceptions). -/
theorem exec_answers_core (i : Instr) (hi : ∀ o2, i ≠ .prefixCb o2) (s : State) : Answers s (exec i s) := by
  cases i with
  | nop => exact answers_done Evolves.refl
  | ldRrNn p nn => exact answers_done (Evolves.refl.setPair _ _)
  | ldBcA => exact answers_done (Evolves.refl.write _ _)
  | ldDeA => exact answers_done (Evolves.refl.write _ _)
  | ldHlIncA => exact answers_done ((Evolves.refl.write _ _).setPair _ _)
  | ldHlDecA => exact answers_done ((Evolves.refl.write _ _).setPair _ _)
  | incRr p => exact answers_done (Evolves.refl.setPair _ _)
  | incR r => exact answers_done ((Evolves.refl.setReg _ _).setFlags _)
  | incHl => exact answers_done (((Evolves.refl.read _).write _ _).setFlags _)
  | decR r => exact answers_done ((Evolves.refl.setReg _ _).setFlags _)
  | decHl => exact answers_done (((Evolves.refl.read _).write _ _).setFlags _)
  | ldRN r n => exact answers_done (Evolves.refl.setReg _ _)
  | ldHlN n => exact answers_done (Evolves.refl.write _ _)
  | rlca => exact answers_done ((Evolves.refl.setReg _ _).setFlags _)
  | rrca => exact answers_done ((Evolves.refl.setReg _ _).setFlags _)
  | rla => exact answers_done ((Evolves.refl.setReg _ _).setFlags _)
  | rra => exact answers_done ((Evolves.refl.setReg _ _).setFlags _)
  | ldNnSp nn => exact answers_done (Evolves.refl.writeWord _ _)
  | addHlRr p => exact answers_done ((Evolves.refl.setPair _ _).setFlags _)
  | ldABc => exact answers_done ((Evolves.refl.read _).setReg _ _)
  | ldADe => exact answers_done ((Evolves.refl.read _).setReg _ _)
  | ldAHlInc => exact answers_done (((Evolves.refl.read _).setReg _ _).setPair _ _)
  | ldAHlDec => exact answers_done (((Evolves.refl.read _).setReg _ _).setPair _ _)
  | decRr p => exact answers_done (Evolves.refl.setPair _ _)
  | stop => exact answers_done Evolves.refl
  | jrE e => exact answers_done (Evolves.refl.setPc _)
  | jrCcE cc e =>
    simp only [exec, execJrCcE]
    split
    · exact answers_done (Evolves.refl.setPc _)
    · exact answers_done Evolves.refl
  | daa => exact answers_done (Evolves.refl.accumulate _)
  | cpl => exact answers_done ((Evolves.refl.setReg _ _).setFlags _)
  | scf => exact answers_done (Evolves.refl.setFlags _)
  | ccf => exact answers_done (Evolves.refl.setFlags _)
  | ldRR dst r => exact answers_done (Evolves.refl.setReg _ _)
  | ldRHl dst => exact answers_done ((Evolves.refl.read _).setReg _ _)
  | ldHlR r => exact answers_done (Evolves.refl.write _ _)
  | halt => exact answers_done (Evolves.refl.setHalted _)
  | addAR r => exact answers_done (Evolves.refl.accumulate _)
  | addAHl => exact answers_done ((Evolves.refl.read _).accumulate _)
  | addAN n => exact answers_done (Evolves.refl.accumulate _)
  | adcAR r => exact answers_done (Evolves.refl.accumulate _)
  | adcAHl => exact answers_done ((Evolves.refl.read _).accumulate _)
  | adcAN n => exact answers_done (Evolves.refl.accumulate _)
  | subR r => exact answers_done (Evolves.refl.accumulate _)
  | subHl => exact answers_done ((Evolves.refl.read _).accumulate _)
  | subN n => exact answers_done (Evolves.refl.accumulate _)
  | sbcAR r => exact answers_done (Evolves.refl.accumulate _)
  | sbcAHl => exact answers_done ((Evolves.refl.read _).accumulate _)
  | sbcAN n => exact answers_done (Evolves.refl.accumulate _)
  | andR r => exact answers_done (Evolves.refl.accumulate _)
  | andHl => exact answers_done ((Evolves.refl.read _).accumulate _)
  | andN n => exact answers_done (Evolves.refl.accumulate _)
  | xorR r => exact answers_done (Evolves.refl.accumulate _)
  | xorHl => exact answers_done ((Evolves.refl.read _).accumulate _)
  | xorN n => exact answers_done (Evolves.refl.accumulate _)
  | orR r => exact answers_done (Evolves.refl.accumulate _)
  | orHl => exact answers_done ((Evolves.refl.read _).accumulate _)
  | orN n => exact answers_done (Evolves.refl.accumulate _)
  | cpR r => exact answers_done (Evolves.refl.setFlags _)
  | cpHl => exact answers_done ((Evolves.refl.read _).setFlags _)
  | cpN n => exact answers_done (Evolves.refl.setFlags _)
  | retCc cc =>
    simp only [exec, execRetCc]
    split
    · exact answers_done (Evolves.refl.pop16.setPc _)
    · exact answers_done Evolves.refl
  | pop q => exact answers_done (Evolves.refl.pop16.setPairQ _ _)
  | jpCcNn cc nn =>
    simp only [exec, execJpCcNn]
    split
    · exact answers_done (Evolves.refl.setPc _)
    · exact answers_done Evolves.refl
  | jpNn nn => exact answers_done (Evolves.refl.setPc _)
  | callCcNn cc nn =>
    simp only [exec, execCallCcNn]
    split
    · exact answers_done ((Evolves.refl.push16 _).setPc _)
    · exact answers_done Evolves.refl
  | push q => exact answers_done (Evolves.refl.push16 _)
  | rst t => exact answers_done ((Evolves.refl.push16 _).setPc _)
  | ret => exact answers_done (Evolves.refl.pop16.setPc _)
  | reti => exact answers_done ((Evolves.refl.pop16.setPc _).setIme _)
  | prefixCb o2 => exact absurd rfl (hi o2)
  | callNn nn => exact answers_done ((Evolves.refl.push16 _).setPc _)
  | ldhNA n => exact answers_done (Evolves.refl.write _ _)
  | ldhCA => exact answers_done (Evolves.refl.write _ _)
  | addSpE e => exact answers_done ((Evolves.refl.setSp _).setFlags _)
  | jpHl => exact answers_done (Evolves.refl.setPc _)
  | ldNnA nn => exact answers_done (Evolves.refl.write _ _)
  | ldhAN n => exact answers_done ((Evolves.refl.read _).setReg _ _)
  | ldhAC => exact answers_done ((Evolves.refl.read _).setReg _ _)
  | di => exact answers_done (Evolves.refl.setIme _)
  | ldHlSpE e => exact answers_done ((Evolves.refl.setPair _ _).setFlags _)
  | ldSpHl => exact answers_done (Evolves.refl.setSp _)
  | ldANn nn => exact answers_done ((Evolves.refl.read _).setReg _ _)
  | ei => exact answers_done (Evolves.refl.setIme _)
  | undefD3 => exact answers_done (Evolves.refl.emit _ _)
  | undefDB => exact answers_done (Evolves.refl.emit _ _)
  | undefDD => exact answers_done (Evolves.refl.emit _ _)
  | undefE3 => exact answers_done (Evolves.refl.emit _ _)
  | undefE4 => exact answers_done (Evolves.refl.emit _ _)
  | undefEB => exact answers_done (Evolves.refl.emit _ _)
  | undefEC => exact answers_done (Evolves.refl.emit _ _)
  | undefED => exact answers_done (Evolves.refl.emit _ _)
  | undefF4 => exact answers_done (Evolves.refl.emit _ _)
  | undefFC => exact answers_done (Evolves.refl.emit _ _)
  | undefFD => exact answers_done (Evolves.refl.emit _ _)
  | rlcR r => exact answers_done ((Evolves.refl.setReg _ _).setFlags _)
  | rlcHl => exact answers_done (((Evolves.refl.read _).write _ _).setFlags _)
  | rrcR r => exact answers_done ((Evolves.refl.setReg _ _).setFlags _)
  | rrcHl => exact answers_done (((Evolves.refl.read _).write _ _).setFlags _)
  | rlR r => exact answers_done ((Evolves.refl.setReg _ _).setFlags _)
  | rlHl => exact answers_done (((Evolves.refl.read _).write _ _).setFlags _)
  | rrR r => exact answers_done ((Evolves.refl.setReg _ _).setFlags _)
  | rrHl => exact answers_done (((Evolves.refl.read _).write _ _).setFlags _)
  | slaR r => exact answers_done ((Evolves.refl.setReg _ _).setFlags _)
  | slaHl => exact answers_done (((Evolves.refl.read _).write _ _).setFlags _)
  | sraR r => exact answers_done ((Evolves.refl.setReg _ _).setFlags _)
  | sraHl => exact answers_done (((Evolves.refl.read _).write _ _).setFlags _)
  | swapR r => exact answers_done ((Evolves.refl.setReg _ _).setFlags _)
  | swapHl => exact answers_done (((Evolves.refl.read _).write _ _).setFlags _)
  | srlR r => exact answers_done ((Evolves.refl.setReg _ _).setFlags _)
  | srlHl => exact answers_done (((Evolves.refl.read _).write _ _).setFlags _)
  | bitBR b r => exact answers_done (Evolves.refl.setFlags _)
  | bitBHl b => exact answers_done ((Evolves.refl.read _).setFlags _)
  | resBR b r => exact answers_done (Evolves.refl.setReg _ _)
  | resBHl b => exact answers_done ((Evolves.refl.read _).write _ _)
  | setBR b r => exact answers_done (Evolves.refl.setReg _ _)
  | setBHl b => exact answers_done ((Evolves.refl.read _).write _ _)

theorem decodeExtended_ne_prefixCb (o o2 : Byte) : decodeExtended o ≠ .prefixCb o2 := by
  unfold decodeExtended
  split <;> (try split) <;> exact nofun

theorem exec_answers (i : Instr) (s : State) : Answers s (exec i s) := by
  by_cases h : ∃ o2, i = .prefixCb o2
  · obtain ⟨o2, rfl⟩ := h
    show Answers s (execExtended o2 s)
    rw [execExtended_eq]
    exact exec_answers_core _ (decodeExtended_ne_prefixCb o2) s
  · exact exec_answers_core i (fun o2 h' => h ⟨o2, h'⟩) s

theorem evolves_trans {s t u : State} (h : Evolves s t) (h' : Evolves t u) : Evolves s u := by
  induction h' with
  | refl => exact h
  | regs _ g ih => exact ih.regs g
  | read _ a ih => exact ih.read a
  | write _ a v ih => exact ih.write a v
  | ime _ b ih => exact ih.ime b
  | halted _ b ih => exact ih.halted b
  | diags _ l ih => exact ih.diags l
  | iflag _ v ih => exact ih.iflag v
  | cost _ n ih => exact ih.cost n

/-- The step, said once: it answers a next state, which is the devices' advance of a state made of instruction updates. -/
theorem step_answers (s : State) : ∃ u, step s = .next u.advanceDevices ∧ Evolves s u ∧ u.cost ≤ 6 := by
  unfold step
  simp only
  split
  · exact ⟨_, rfl, Evolves.refl.wake.takeInterrupt _, show Config.intDispatchUnits ≤ 6 by decide⟩
  · split
    · exact ⟨_, rfl, Evolves.refl.wake.cost _, show Config.haltIdleUnits ≤ 6 by decide⟩
    · obtain ⟨t, ht, he, hc⟩ := exec_answers s.wake.fetchInstr.1 s.wake.fetchInstr.2
      rw [ht]
      refine ⟨t, rfl, ?_, hc⟩
      exact evolves_trans Evolves.refl.wake.fetchInstr he

end Sys2Proof.Machine
end

