-- ==== Sys2Proof/Laws/Frames.lean ====
section
/-! SUPPORT. The frames of Safety.lean from the updates that give them: what a caller cites in place of unfolding a read, a write, a
push or a pop. -/

namespace Sys2Proof.Machine

variable {s t : State}

theorem Evolves.keepsHidden (h : Evolves s t) : s.KeepsHidden t := ⟨h.images.1, h.images.2, h.hidden⟩

/-- A state that reads as the one after a write of `v` to `a` is one in which `v` is stored at `a`. -/
theorem stores_of {a : Word} {v : Byte} (h : ∀ b, t.peek b = (s.writeByte a v).peek b) (hb : t.boot = (s.writeByte a v).boot) :
    s.Stores a v t := by
  refine ⟨h, fun hw ha => ?_, fun b hn => ?_, ?_⟩
  · rw [h, peek_writeByte_self s hw ha]
  · rw [h, peek_writeByte s hn]
  · rw [hb, writeByte_boot, Bool.decide_and]

/-- A state that reads as the one after a read of `a`. -/
theorem keepsMemoryReading_of {a : Word} (h : ∀ b, t.peek b = (s.afterRead a).peek b) (hb : t.boot = (s.afterRead a).boot) :
    s.KeepsMemoryReading a t :=
  ⟨by rw [hb, afterRead_boot], fun b hn => by rw [h, peek_afterRead s hn]⟩

/-- The read of an address that is not 0x0100 keeps all memory. -/
theorem keepsMemory_of_reading {a : Word} (h : s.KeepsMemoryReading a t) (ha : a ≠ 0x0100) : s.KeepsMemory t :=
  ⟨by rw [h.1, decide_eq_true ha, Bool.and_true], fun b => h.2 b fun h' => ha h'.1⟩

theorem highPage_ne (v : Byte) : highPage v ≠ 0x0100 := by
  unfold highPage zext16
  intro h
  have h := congrArg BitVec.toNat h
  rw [BitVec.toNat_add, BitVec.toNat_setWidth, show (0xFF00 : Word).toNat = 0xFF00 from rfl,
    show (0x0100 : Word).toNat = 0x100 from rfl] at h
  have := v.isLt
  omega

/-! ### A write by itself -/

theorem keepsRegs_writeByte (s : State) (a : Word) (v : Byte) : s.KeepsRegs (s.writeByte a v) := by
  simp [State.KeepsRegs, State.reg, State.flags]

theorem keepsControl_writeByte (s : State) (a : Word) (v : Byte) : s.KeepsControl (s.writeByte a v) := by
  simp [State.KeepsControl]

theorem keepsHidden_writeByte (s : State) (a : Word) (v : Byte) : s.KeepsHidden (s.writeByte a v) :=
  (Evolves.refl.write a v).keepsHidden

theorem writeByte_boot_ne (s : State) {a : Word} (h : a ≠ 0xFF46) (v : Byte) : (s.writeByte a v).boot = s.boot := by
  rw [writeByte_boot, decide_eq_false h, Bool.false_and, Bool.not_false, Bool.and_true]

theorem writeByte_ie (s : State) (v : Byte) : s.writeByte 0xFFFF v = { s with ie := v } := by
  have : regionOf 0xFFFF = .interruptEnable := (regionOf_ie _).2 (by decide)
  simp only [State.writeByte, this]

theorem peek_ie (s : State) : s.peek 0xFFFF = s.ie := by
  have : regionOf 0xFFFF = .interruptEnable := (regionOf_ie _).2 (by decide)
  simp only [State.peek, this]

/-- A read and a write in the I/O window are those of the register there (R82). -/
theorem peek_io (s : State) {a : Word} (h : 0xFF00 ≤ a.toNat ∧ a.toNat < 0xFF80) : s.peek a = s.readIo (ioRegAt a) := by
  simp only [State.peek, (regionOf_io a).2 h]

theorem writeByte_io (s : State) {a : Word} (h : 0xFF00 ≤ a.toNat ∧ a.toNat < 0xFF80) (v : Byte) :
    s.writeByte a v = s.writeIo (ioRegAt a) v := by
  simp only [State.writeByte, (regionOf_io a).2 h]

/-- `IF` is written at 0xFF0F and nowhere else (10_state.md R42). -/
theorem ioRegAt_iflag {a : Word} (h : regionOf a = .io) (hr : ioRegAt a = .iflag) : a = 0xFF0F := by
  have h1 := (regionOf_io a).1 h
  unfold ioRegAt at hr
  rw [ioOffset (by omega)] at hr
  have := ioReg_inj (i := a.toNat - 0xFF00) (j := 0x0F) (by rw [hr]; rfl) (by rw [hr]; simp)
  rw [← BitVec.toNat_inj, show (0xFF0F : Word).toNat = 0xFF0F from rfl]
  omega

theorem writeByte_iflag_ne (s : State) {a : Word} (h : a ≠ 0xFF0F) (v : Byte) : (s.writeByte a v).iflag = s.iflag := by
  unfold State.writeByte
  split
  case h_9 hio =>
    have hne : ioRegAt a ≠ .iflag := fun hr => h (ioRegAt_iflag hio hr)
    unfold State.writeIo
    split
    case h_13 => rw [bulkTransfer_eq]
    all_goals first | rfl | exact absurd ‹_› hne
  all_goals rfl

/-- The value of `IF` is read at 0xFF0F and nowhere else. -/
theorem peek_iflag_ne (s : State) (f : Byte) {b : Word} (h : b ≠ 0xFF0F) : ({ s with iflag := f } : State).peek b = s.peek b := by
  refine peek_congr (fun _ => rfl) rfl rfl (fun _ => rfl) (fun hb => ?_) (fun _ => rfl)
  have hne : ioRegAt b ≠ .iflag := fun hr => h (ioRegAt_iflag hb hr)
  unfold State.readIo
  split <;> first | rfl | exact absurd ‹_› hne

/-! ### Two bytes read in turn -/

/-- The second byte of a word is what it was before the first was read: the overlay is gone only from addresses below 0x0100, and
the address after 0x0100 is 0x0101. -/
theorem peek_afterRead_succ (s : State) (a : Word) : (s.afterRead a).peek (a + 1) = s.peek (a + 1) := by
  refine peek_afterRead s fun ⟨ha, _, hb⟩ => ?_
  rw [ha, show ((0x0100 : Word) + 1).toNat = 0x101 from rfl] at hb
  omega

theorem readWord_fst_eq (s : State) (a : Word) : (s.readWord a).1 = word (s.peek (a + 1)) (s.peek a) := by
  rw [readWord_fst, peek_afterRead_succ]

theorem readWord_boot (s : State) (a : Word) :
    (s.readWord a).2.boot = (s.boot && decide (a ≠ 0x0100 ∧ a + 1 ≠ 0x0100)) := by
  rw [readWord_snd, afterRead_boot, afterRead_boot, Bool.and_assoc, ← Bool.decide_and]

theorem peek_readWord (s : State) {a b : Word} (h : ¬((a = 0x0100 ∨ a + 1 = 0x0100) ∧ s.boot = true ∧ b.toNat < 0x100)) :
    (s.readWord a).2.peek b = s.peek b := by
  rw [readWord_snd, peek_afterRead, peek_afterRead]
  · exact fun ⟨h1, h2⟩ => h ⟨.inl h1, h2⟩
  · intro ⟨h1, h2, h3⟩
    rw [afterRead_boot, Bool.and_eq_true] at h2
    exact h ⟨.inr h1, h2.1, h3⟩

@[simp] theorem readWord_regs (s : State) (a : Word) : (s.readWord a).2.regs = s.regs := by rw [readWord_snd]; simp
@[simp] theorem readWord_ime (s : State) (a : Word) : (s.readWord a).2.ime = s.ime := by rw [readWord_snd]; simp
@[simp] theorem readWord_halted (s : State) (a : Word) : (s.readWord a).2.halted = s.halted := by rw [readWord_snd]; simp
@[simp] theorem readWord_diags (s : State) (a : Word) : (s.readWord a).2.diags = s.diags := by rw [readWord_snd]; simp

@[simp] theorem writeWord_regs (s : State) (a w : Word) : (s.writeWord a w).regs = s.regs := by simp [State.writeWord]
@[simp] theorem writeWord_ime (s : State) (a w : Word) : (s.writeWord a w).ime = s.ime := by simp [State.writeWord]
@[simp] theorem writeWord_halted (s : State) (a w : Word) : (s.writeWord a w).halted = s.halted := by simp [State.writeWord]
@[simp] theorem writeWord_diags (s : State) (a w : Word) : (s.writeWord a w).diags = s.diags := by simp [State.writeWord]

/-- A push is a word store at the new `SP` and the new `SP` (R164). -/
theorem push16_eq (s : State) (w : Word) : s.push16 w = (s.writeWord (s.regs.sp - 2) w).setSp (s.regs.sp - 2) := by
  have h := writeWord_withCpu s { s.regs with sp := s.regs.sp - 2 } s.ime s.halted (s.regs.sp - 2) w
  refine Eq.trans h ?_
  unfold State.withCpu State.setSp
  rw [writeWord_regs]
  congr 1 <;> simp

theorem sub_two_succ (w : Word) : w - 2 + 1 = w - 1 := by bv_omega

/-- Two readings of one word agree with the number it is. -/
theorem word_eq (h l : Byte) : word h l = BitVec.ofNat 16 (256 * h.toNat + l.toNat) := by
  have := h.isLt
  have := l.isLt
  apply BitVec.eq_of_toNat_eq
  unfold word
  rw [show (h ++ l).toNat = h.toNat <<< 8 ||| l.toNat from BitVec.toNat_append .., Nat.shiftLeft_eq, BitVec.toNat_ofNat,
    ← Nat.shiftLeft_eq, ← Nat.shiftLeft_add_eq_or_of_lt l.isLt, Nat.shiftLeft_eq]
  omega

theorem lo_eq (w : Word) : lo w = w.setWidth 8 := by
  unfold lo
  ext i hi
  simp [BitVec.getElem_extractLsb', BitVec.getLsbD_eq_getElem (show i < 16 by omega)]

theorem hi_eq (w : Word) : hi w = (w >>> 8).setWidth 8 := by
  unfold hi
  ext i h
  simp [BitVec.getElem_extractLsb', BitVec.getLsbD_eq_getElem (show 8 + i < 16 by omega)]

theorem lo_toNat (w : Word) : (lo w).toNat = w.toNat % 256 := by
  rw [lo_eq, BitVec.toNat_setWidth]

theorem hi_toNat (w : Word) : (hi w).toNat = w.toNat / 256 := by
  have := w.isLt
  rw [hi_eq, BitVec.toNat_setWidth, BitVec.toNat_ushiftRight, Nat.shiftRight_eq_div_pow]
  omega

end Sys2Proof.Machine
end

