-- ==== Sys2Proof/Laws/PerInstr.lean ====
section
/-! SUPPORT. Statements about every instruction as syntax, one lemma per constructor: decoding its encoding gives it back with the
bytes after it, and its encoding has the length that its opcode byte announces. -/

namespace Sys2Proof.Laws

/-- Decoding the encoding of a well-formed instruction gives it back, whatever bytes follow (R114, R115, R118). -/
def RoundTrip.Statement (i : Instr) : Prop :=
  i.wellFormed = true → ∀ rest, decode (encode i ++ rest) = .ok (i, rest)

/-- The encoding is as long as the first byte announces (R100, R101). -/
def LengthAgrees.Statement (i : Instr) : Prop :=
  (encode i).length = i.length ∧ ∃ o rest, encode i = o :: rest ∧ opLength o = i.length

namespace RoundTrip

theorem nop : Statement (.nop) := by
  intro _ rest
  rfl

theorem ldRrNn (p : Pair) (nn : Word) : Statement (.ldRrNn p nn) := by
  intro _ rest
  cases p <;> exact congrArg (fun w => Except.ok (Instr.ldRrNn _ w, rest)) (Machine.word_hi_lo nn)

theorem ldBcA : Statement (.ldBcA) := by
  intro _ rest
  rfl

theorem ldDeA : Statement (.ldDeA) := by
  intro _ rest
  rfl

theorem ldHlIncA : Statement (.ldHlIncA) := by
  intro _ rest
  rfl

theorem ldHlDecA : Statement (.ldHlDecA) := by
  intro _ rest
  rfl

theorem incRr (p : Pair) : Statement (.incRr p) := by
  intro _ rest
  cases p <;> rfl

theorem incR (r : Reg8) : Statement (.incR r) := by
  intro _ rest
  cases r <;> rfl

theorem incHl : Statement (.incHl) := by
  intro _ rest
  rfl

theorem decR (r : Reg8) : Statement (.decR r) := by
  intro _ rest
  cases r <;> rfl

theorem decHl : Statement (.decHl) := by
  intro _ rest
  rfl

theorem ldRN (r : Reg8) (n : Byte) : Statement (.ldRN r n) := by
  intro _ rest
  cases r <;> rfl

theorem ldHlN (n : Byte) : Statement (.ldHlN n) := by
  intro _ rest
  rfl

theorem rlca : Statement (.rlca) := by
  intro _ rest
  rfl

theorem rrca : Statement (.rrca) := by
  intro _ rest
  rfl

theorem rla : Statement (.rla) := by
  intro _ rest
  rfl

theorem rra : Statement (.rra) := by
  intro _ rest
  rfl

theorem ldNnSp (nn : Word) : Statement (.ldNnSp nn) := by
  intro _ rest
  exact congrArg (fun w => Except.ok (Instr.ldNnSp w, rest)) (Machine.word_hi_lo nn)

theorem addHlRr (p : Pair) : Statement (.addHlRr p) := by
  intro _ rest
  cases p <;> rfl

theorem ldABc : Statement (.ldABc) := by
  intro _ rest
  rfl

theorem ldADe : Statement (.ldADe) := by
  intro _ rest
  rfl

theorem ldAHlInc : Statement (.ldAHlInc) := by
  intro _ rest
  rfl

theorem ldAHlDec : Statement (.ldAHlDec) := by
  intro _ rest
  rfl

theorem decRr (p : Pair) : Statement (.decRr p) := by
  intro _ rest
  cases p <;> rfl

theorem stop : Statement (.stop) := by
  intro _ rest
  rfl

theorem jrE (e : Byte) : Statement (.jrE e) := by
  intro _ rest
  rfl

theorem jrCcE (cc : Cond) (e : Byte) : Statement (.jrCcE cc e) := by
  intro _ rest
  cases cc <;> rfl

theorem daa : Statement (.daa) := by
  intro _ rest
  rfl

theorem cpl : Statement (.cpl) := by
  intro _ rest
  rfl

theorem scf : Statement (.scf) := by
  intro _ rest
  rfl

theorem ccf : Statement (.ccf) := by
  intro _ rest
  rfl

theorem ldRR (dst : Reg8) (r : Reg8) : Statement (.ldRR dst r) := by
  intro _ rest
  cases dst <;> cases r <;> rfl

theorem ldRHl (dst : Reg8) : Statement (.ldRHl dst) := by
  intro _ rest
  cases dst <;> rfl

theorem ldHlR (r : Reg8) : Statement (.ldHlR r) := by
  intro _ rest
  cases r <;> rfl

theorem halt : Statement (.halt) := by
  intro _ rest
  rfl

theorem addAR (r : Reg8) : Statement (.addAR r) := by
  intro _ rest
  cases r <;> rfl

theorem addAHl : Statement (.addAHl) := by
  intro _ rest
  rfl

theorem addAN (n : Byte) : Statement (.addAN n) := by
  intro _ rest
  rfl

theorem adcAR (r : Reg8) : Statement (.adcAR r) := by
  intro _ rest
  cases r <;> rfl

theorem adcAHl : Statement (.adcAHl) := by
  intro _ rest
  rfl

theorem adcAN (n : Byte) : Statement (.adcAN n) := by
  intro _ rest
  rfl

theorem subR (r : Reg8) : Statement (.subR r) := by
  intro _ rest
  cases r <;> rfl

theorem subHl : Statement (.subHl) := by
  intro _ rest
  rfl

theorem subN (n : Byte) : Statement (.subN n) := by
  intro _ rest
  rfl

theorem sbcAR (r : Reg8) : Statement (.sbcAR r) := by
  intro _ rest
  cases r <;> rfl

theorem sbcAHl : Statement (.sbcAHl) := by
  intro _ rest
  rfl

theorem sbcAN (n : Byte) : Statement (.sbcAN n) := by
  intro _ rest
  rfl

theorem andR (r : Reg8) : Statement (.andR r) := by
  intro _ rest
  cases r <;> rfl

theorem andHl : Statement (.andHl) := by
  intro _ rest
  rfl

theorem andN (n : Byte) : Statement (.andN n) := by
  intro _ rest
  rfl

theorem xorR (r : Reg8) : Statement (.xorR r) := by
  intro _ rest
  cases r <;> rfl

theorem xorHl : Statement (.xorHl) := by
  intro _ rest
  rfl

theorem xorN (n : Byte) : Statement (.xorN n) := by
  intro _ rest
  rfl

theorem orR (r : Reg8) : Statement (.orR r) := by
  intro _ rest
  cases r <;> rfl

theorem orHl : Statement (.orHl) := by
  intro _ rest
  rfl

theorem orN (n : Byte) : Statement (.orN n) := by
  intro _ rest
  rfl

theorem cpR (r : Reg8) : Statement (.cpR r) := by
  intro _ rest
  cases r <;> rfl

theorem cpHl : Statement (.cpHl) := by
  intro _ rest
  rfl

theorem cpN (n : Byte) : Statement (.cpN n) := by
  intro _ rest
  rfl

theorem retCc (cc : Cond) : Statement (.retCc cc) := by
  intro _ rest
  cases cc <;> rfl

theorem pop (q : PairQ) : Statement (.pop q) := by
  intro _ rest
  cases q <;> rfl

theorem jpCcNn (cc : Cond) (nn : Word) : Statement (.jpCcNn cc nn) := by
  intro _ rest
  cases cc <;> exact congrArg (fun w => Except.ok (Instr.jpCcNn _ w, rest)) (Machine.word_hi_lo nn)

theorem jpNn (nn : Word) : Statement (.jpNn nn) := by
  intro _ rest
  exact congrArg (fun w => Except.ok (Instr.jpNn w, rest)) (Machine.word_hi_lo nn)

theorem callCcNn (cc : Cond) (nn : Word) : Statement (.callCcNn cc nn) := by
  intro _ rest
  cases cc <;> exact congrArg (fun w => Except.ok (Instr.callCcNn _ w, rest)) (Machine.word_hi_lo nn)

theorem push (q : PairQ) : Statement (.push q) := by
  intro _ rest
  cases q <;> rfl

theorem rst (t : Fin 8) : Statement (.rst t) := by
  intro _ rest
  fin_cases t <;> rfl

theorem ret : Statement (.ret) := by
  intro _ rest
  rfl

theorem reti : Statement (.reti) := by
  intro _ rest
  rfl

theorem prefixCb (o2 : Byte) : Statement (.prefixCb o2) :=
  fun h => nomatch h

theorem callNn (nn : Word) : Statement (.callNn nn) := by
  intro _ rest
  exact congrArg (fun w => Except.ok (Instr.callNn w, rest)) (Machine.word_hi_lo nn)

theorem ldhNA (n : Byte) : Statement (.ldhNA n) := by
  intro _ rest
  rfl

theorem ldhCA : Statement (.ldhCA) := by
  intro _ rest
  rfl

theorem addSpE (e : Byte) : Statement (.addSpE e) := by
  intro _ rest
  rfl

theorem jpHl : Statement (.jpHl) := by
  intro _ rest
  rfl

theorem ldNnA (nn : Word) : Statement (.ldNnA nn) := by
  intro _ rest
  exact congrArg (fun w => Except.ok (Instr.ldNnA w, rest)) (Machine.word_hi_lo nn)

theorem ldhAN (n : Byte) : Statement (.ldhAN n) := by
  intro _ rest
  rfl

theorem ldhAC : Statement (.ldhAC) := by
  intro _ rest
  rfl

theorem di : Statement (.di) := by
  intro _ rest
  rfl

theorem ldHlSpE (e : Byte) : Statement (.ldHlSpE e) := by
  intro _ rest
  rfl

theorem ldSpHl : Statement (.ldSpHl) := by
  intro _ rest
  rfl

theorem ldANn (nn : Word) : Statement (.ldANn nn) := by
  intro _ rest
  exact congrArg (fun w => Except.ok (Instr.ldANn w, rest)) (Machine.word_hi_lo nn)

theorem ei : Statement (.ei) := by
  intro _ rest
  rfl

theorem undefD3 : Statement (.undefD3) := by
  intro _ rest
  rfl

theorem undefDB : Statement (.undefDB) := by
  intro _ rest
  rfl

theorem undefDD : Statement (.undefDD) := by
  intro _ rest
  rfl

theorem undefE3 : Statement (.undefE3) := by
  intro _ rest
  rfl

theorem undefE4 : Statement (.undefE4) := by
  intro _ rest
  rfl

theorem undefEB : Statement (.undefEB) := by
  intro _ rest
  rfl

theorem undefEC : Statement (.undefEC) := by
  intro _ rest
  rfl

theorem undefED : Statement (.undefED) := by
  intro _ rest
  rfl

theorem undefF4 : Statement (.undefF4) := by
  intro _ rest
  rfl

theorem undefFC : Statement (.undefFC) := by
  intro _ rest
  rfl

theorem undefFD : Statement (.undefFD) := by
  intro _ rest
  rfl

theorem rlcR (r : Reg8) : Statement (.rlcR r) := by
  intro _ rest
  cases r <;> rfl

theorem rlcHl : Statement (.rlcHl) := by
  intro _ rest
  rfl

theorem rrcR (r : Reg8) : Statement (.rrcR r) := by
  intro _ rest
  cases r <;> rfl

theorem rrcHl : Statement (.rrcHl) := by
  intro _ rest
  rfl

theorem rlR (r : Reg8) : Statement (.rlR r) := by
  intro _ rest
  cases r <;> rfl

theorem rlHl : Statement (.rlHl) := by
  intro _ rest
  rfl

theorem rrR (r : Reg8) : Statement (.rrR r) := by
  intro _ rest
  cases r <;> rfl

theorem rrHl : Statement (.rrHl) := by
  intro _ rest
  rfl

theorem slaR (r : Reg8) : Statement (.slaR r) := by
  intro _ rest
  cases r <;> rfl

theorem slaHl : Statement (.slaHl) := by
  intro _ rest
  rfl

theorem sraR (r : Reg8) : Statement (.sraR r) := by
  intro _ rest
  cases r <;> rfl

theorem sraHl : Statement (.sraHl) := by
  intro _ rest
  rfl

theorem swapR (r : Reg8) : Statement (.swapR r) := by
  intro _ rest
  cases r <;> rfl

theorem swapHl : Statement (.swapHl) := by
  intro _ rest
  rfl

theorem srlR (r : Reg8) : Statement (.srlR r) := by
  intro _ rest
  cases r <;> rfl

theorem srlHl : Statement (.srlHl) := by
  intro _ rest
  rfl

theorem bitBR (b : Fin 8) (r : Reg8) : Statement (.bitBR b r) := by
  intro _ rest
  fin_cases b <;> cases r <;> rfl

theorem bitBHl (b : Fin 8) : Statement (.bitBHl b) := by
  intro _ rest
  fin_cases b <;> rfl

theorem resBR (b : Fin 8) (r : Reg8) : Statement (.resBR b r) := by
  intro _ rest
  fin_cases b <;> cases r <;> rfl

theorem resBHl (b : Fin 8) : Statement (.resBHl b) := by
  intro _ rest
  fin_cases b <;> rfl

theorem setBR (b : Fin 8) (r : Reg8) : Statement (.setBR b r) := by
  intro _ rest
  fin_cases b <;> cases r <;> rfl

theorem setBHl (b : Fin 8) : Statement (.setBHl b) := by
  intro _ rest
  fin_cases b <;> rfl

end RoundTrip

namespace LengthAgrees

theorem nop : Statement (.nop) := ⟨rfl, _, _, rfl, rfl⟩

theorem ldRrNn (p : Pair) (nn : Word) : Statement (.ldRrNn p nn) := by
  cases p <;> exact ⟨rfl, _, _, rfl, rfl⟩

theorem ldBcA : Statement (.ldBcA) := ⟨rfl, _, _, rfl, rfl⟩

theorem ldDeA : Statement (.ldDeA) := ⟨rfl, _, _, rfl, rfl⟩

theorem ldHlIncA : Statement (.ldHlIncA) := ⟨rfl, _, _, rfl, rfl⟩

theorem ldHlDecA : Statement (.ldHlDecA) := ⟨rfl, _, _, rfl, rfl⟩

theorem incRr (p : Pair) : Statement (.incRr p) := by
  cases p <;> exact ⟨rfl, _, _, rfl, rfl⟩

theorem incR (r : Reg8) : Statement (.incR r) := by
  cases r <;> exact ⟨rfl, _, _, rfl, rfl⟩

theorem incHl : Statement (.incHl) := ⟨rfl, _, _, rfl, rfl⟩

theorem decR (r : Reg8) : Statement (.decR r) := by
  cases r <;> exact ⟨rfl, _, _, rfl, rfl⟩

theorem decHl : Statement (.decHl) := ⟨rfl, _, _, rfl, rfl⟩

theorem ldRN (r : Reg8) (n : Byte) : Statement (.ldRN r n) := by
  cases r <;> exact ⟨rfl, _, _, rfl, rfl⟩

theorem ldHlN (n : Byte) : Statement (.ldHlN n) := ⟨rfl, _, _, rfl, rfl⟩

theorem rlca : Statement (.rlca) := ⟨rfl, _, _, rfl, rfl⟩

theorem rrca : Statement (.rrca) := ⟨rfl, _, _, rfl, rfl⟩

theorem rla : Statement (.rla) := ⟨rfl, _, _, rfl, rfl⟩

theorem rra : Statement (.rra) := ⟨rfl, _, _, rfl, rfl⟩

theorem ldNnSp (nn : Word) : Statement (.ldNnSp nn) := ⟨rfl, _, _, rfl, rfl⟩

theorem addHlRr (p : Pair) : Statement (.addHlRr p) := by
  cases p <;> exact ⟨rfl, _, _, rfl, rfl⟩

theorem ldABc : Statement (.ldABc) := ⟨rfl, _, _, rfl, rfl⟩

theorem ldADe : Statement (.ldADe) := ⟨rfl, _, _, rfl, rfl⟩

theorem ldAHlInc : Statement (.ldAHlInc) := ⟨rfl, _, _, rfl, rfl⟩

theorem ldAHlDec : Statement (.ldAHlDec) := ⟨rfl, _, _, rfl, rfl⟩

theorem decRr (p : Pair) : Statement (.decRr p) := by
  cases p <;> exact ⟨rfl, _, _, rfl, rfl⟩

theorem stop : Statement (.stop) := ⟨rfl, _, _, rfl, rfl⟩

theorem jrE (e : Byte) : Statement (.jrE e) := ⟨rfl, _, _, rfl, rfl⟩

theorem jrCcE (cc : Cond) (e : Byte) : Statement (.jrCcE cc e) := by
  cases cc <;> exact ⟨rfl, _, _, rfl, rfl⟩

theorem daa : Statement (.daa) := ⟨rfl, _, _, rfl, rfl⟩

theorem cpl : Statement (.cpl) := ⟨rfl, _, _, rfl, rfl⟩

theorem scf : Statement (.scf) := ⟨rfl, _, _, rfl, rfl⟩

theorem ccf : Statement (.ccf) := ⟨rfl, _, _, rfl, rfl⟩

theorem ldRR (dst : Reg8) (r : Reg8) : Statement (.ldRR dst r) := by
  cases dst <;> cases r <;> exact ⟨rfl, _, _, rfl, rfl⟩

theorem ldRHl (dst : Reg8) : Statement (.ldRHl dst) := by
  cases dst <;> exact ⟨rfl, _, _, rfl, rfl⟩

theorem ldHlR (r : Reg8) : Statement (.ldHlR r) := by
  cases r <;> exact ⟨rfl, _, _, rfl, rfl⟩

theorem halt : Statement (.halt) := ⟨rfl, _, _, rfl, rfl⟩

theorem addAR (r : Reg8) : Statement (.addAR r) := by
  cases r <;> exact ⟨rfl, _, _, rfl, rfl⟩

theorem addAHl : Statement (.addAHl) := ⟨rfl, _, _, rfl, rfl⟩

theorem addAN (n : Byte) : Statement (.addAN n) := ⟨rfl, _, _, rfl, rfl⟩

theorem adcAR (r : Reg8) : Statement (.adcAR r) := by
  cases r <;> exact ⟨rfl, _, _, rfl, rfl⟩

theorem adcAHl : Statement (.adcAHl) := ⟨rfl, _, _, rfl, rfl⟩

theorem adcAN (n : Byte) : Statement (.adcAN n) := ⟨rfl, _, _, rfl, rfl⟩

theorem subR (r : Reg8) : Statement (.subR r) := by
  cases r <;> exact ⟨rfl, _, _, rfl, rfl⟩

theorem subHl : Statement (.subHl) := ⟨rfl, _, _, rfl, rfl⟩

theorem subN (n : Byte) : Statement (.subN n) := ⟨rfl, _, _, rfl, rfl⟩

theorem sbcAR (r : Reg8) : Statement (.sbcAR r) := by
  cases r <;> exact ⟨rfl, _, _, rfl, rfl⟩

theorem sbcAHl : Statement (.sbcAHl) := ⟨rfl, _, _, rfl, rfl⟩

theorem sbcAN (n : Byte) : Statement (.sbcAN n) := ⟨rfl, _, _, rfl, rfl⟩

theorem andR (r : Reg8) : Statement (.andR r) := by
  cases r <;> exact ⟨rfl, _, _, rfl, rfl⟩

theorem andHl : Statement (.andHl) := ⟨rfl, _, _, rfl, rfl⟩

theorem andN (n : Byte) : Statement (.andN n) := ⟨rfl, _, _, rfl, rfl⟩

theorem xorR (r : Reg8) : Statement (.xorR r) := by
  cases r <;> exact ⟨rfl, _, _, rfl, rfl⟩

theorem xorHl : Statement (.xorHl) := ⟨rfl, _, _, rfl, rfl⟩

theorem xorN (n : Byte) : Statement (.xorN n) := ⟨rfl, _, _, rfl, rfl⟩

theorem orR (r : Reg8) : Statement (.orR r) := by
  cases r <;> exact ⟨rfl, _, _, rfl, rfl⟩

theorem orHl : Statement (.orHl) := ⟨rfl, _, _, rfl, rfl⟩

theorem orN (n : Byte) : Statement (.orN n) := ⟨rfl, _, _, rfl, rfl⟩

theorem cpR (r : Reg8) : Statement (.cpR r) := by
  cases r <;> exact ⟨rfl, _, _, rfl, rfl⟩

theorem cpHl : Statement (.cpHl) := ⟨rfl, _, _, rfl, rfl⟩

theorem cpN (n : Byte) : Statement (.cpN n) := ⟨rfl, _, _, rfl, rfl⟩

theorem retCc (cc : Cond) : Statement (.retCc cc) := by
  cases cc <;> exact ⟨rfl, _, _, rfl, rfl⟩

theorem pop (q : PairQ) : Statement (.pop q) := by
  cases q <;> exact ⟨rfl, _, _, rfl, rfl⟩

theorem jpCcNn (cc : Cond) (nn : Word) : Statement (.jpCcNn cc nn) := by
  cases cc <;> exact ⟨rfl, _, _, rfl, rfl⟩

theorem jpNn (nn : Word) : Statement (.jpNn nn) := ⟨rfl, _, _, rfl, rfl⟩

theorem callCcNn (cc : Cond) (nn : Word) : Statement (.callCcNn cc nn) := by
  cases cc <;> exact ⟨rfl, _, _, rfl, rfl⟩

theorem push (q : PairQ) : Statement (.push q) := by
  cases q <;> exact ⟨rfl, _, _, rfl, rfl⟩

theorem rst (t : Fin 8) : Statement (.rst t) := by
  fin_cases t <;> exact ⟨rfl, _, _, rfl, rfl⟩

theorem ret : Statement (.ret) := ⟨rfl, _, _, rfl, rfl⟩

theorem reti : Statement (.reti) := ⟨rfl, _, _, rfl, rfl⟩

theorem prefixCb (o2 : Byte) : Statement (.prefixCb o2) := ⟨rfl, _, _, rfl, rfl⟩

theorem callNn (nn : Word) : Statement (.callNn nn) := ⟨rfl, _, _, rfl, rfl⟩

theorem ldhNA (n : Byte) : Statement (.ldhNA n) := ⟨rfl, _, _, rfl, rfl⟩

theorem ldhCA : Statement (.ldhCA) := ⟨rfl, _, _, rfl, rfl⟩

theorem addSpE (e : Byte) : Statement (.addSpE e) := ⟨rfl, _, _, rfl, rfl⟩

theorem jpHl : Statement (.jpHl) := ⟨rfl, _, _, rfl, rfl⟩

theorem ldNnA (nn : Word) : Statement (.ldNnA nn) := ⟨rfl, _, _, rfl, rfl⟩

theorem ldhAN (n : Byte) : Statement (.ldhAN n) := ⟨rfl, _, _, rfl, rfl⟩

theorem ldhAC : Statement (.ldhAC) := ⟨rfl, _, _, rfl, rfl⟩

theorem di : Statement (.di) := ⟨rfl, _, _, rfl, rfl⟩

theorem ldHlSpE (e : Byte) : Statement (.ldHlSpE e) := ⟨rfl, _, _, rfl, rfl⟩

theorem ldSpHl : Statement (.ldSpHl) := ⟨rfl, _, _, rfl, rfl⟩

theorem ldANn (nn : Word) : Statement (.ldANn nn) := ⟨rfl, _, _, rfl, rfl⟩

theorem ei : Statement (.ei) := ⟨rfl, _, _, rfl, rfl⟩

theorem undefD3 : Statement (.undefD3) := ⟨rfl, _, _, rfl, rfl⟩

theorem undefDB : Statement (.undefDB) := ⟨rfl, _, _, rfl, rfl⟩

theorem undefDD : Statement (.undefDD) := ⟨rfl, _, _, rfl, rfl⟩

theorem undefE3 : Statement (.undefE3) := ⟨rfl, _, _, rfl, rfl⟩

theorem undefE4 : Statement (.undefE4) := ⟨rfl, _, _, rfl, rfl⟩

theorem undefEB : Statement (.undefEB) := ⟨rfl, _, _, rfl, rfl⟩

theorem undefEC : Statement (.undefEC) := ⟨rfl, _, _, rfl, rfl⟩

theorem undefED : Statement (.undefED) := ⟨rfl, _, _, rfl, rfl⟩

theorem undefF4 : Statement (.undefF4) := ⟨rfl, _, _, rfl, rfl⟩

theorem undefFC : Statement (.undefFC) := ⟨rfl, _, _, rfl, rfl⟩

theorem undefFD : Statement (.undefFD) := ⟨rfl, _, _, rfl, rfl⟩

theorem rlcR (r : Reg8) : Statement (.rlcR r) := ⟨rfl, _, _, rfl, rfl⟩

theorem rlcHl : Statement (.rlcHl) := ⟨rfl, _, _, rfl, rfl⟩

theorem rrcR (r : Reg8) : Statement (.rrcR r) := ⟨rfl, _, _, rfl, rfl⟩

theorem rrcHl : Statement (.rrcHl) := ⟨rfl, _, _, rfl, rfl⟩

theorem rlR (r : Reg8) : Statement (.rlR r) := ⟨rfl, _, _, rfl, rfl⟩

theorem rlHl : Statement (.rlHl) := ⟨rfl, _, _, rfl, rfl⟩

theorem rrR (r : Reg8) : Statement (.rrR r) := ⟨rfl, _, _, rfl, rfl⟩

theorem rrHl : Statement (.rrHl) := ⟨rfl, _, _, rfl, rfl⟩

theorem slaR (r : Reg8) : Statement (.slaR r) := ⟨rfl, _, _, rfl, rfl⟩

theorem slaHl : Statement (.slaHl) := ⟨rfl, _, _, rfl, rfl⟩

theorem sraR (r : Reg8) : Statement (.sraR r) := ⟨rfl, _, _, rfl, rfl⟩

theorem sraHl : Statement (.sraHl) := ⟨rfl, _, _, rfl, rfl⟩

theorem swapR (r : Reg8) : Statement (.swapR r) := ⟨rfl, _, _, rfl, rfl⟩

theorem swapHl : Statement (.swapHl) := ⟨rfl, _, _, rfl, rfl⟩

theorem srlR (r : Reg8) : Statement (.srlR r) := ⟨rfl, _, _, rfl, rfl⟩

theorem srlHl : Statement (.srlHl) := ⟨rfl, _, _, rfl, rfl⟩

theorem bitBR (b : Fin 8) (r : Reg8) : Statement (.bitBR b r) := ⟨rfl, _, _, rfl, rfl⟩

theorem bitBHl (b : Fin 8) : Statement (.bitBHl b) := ⟨rfl, _, _, rfl, rfl⟩

theorem resBR (b : Fin 8) (r : Reg8) : Statement (.resBR b r) := ⟨rfl, _, _, rfl, rfl⟩

theorem resBHl (b : Fin 8) : Statement (.resBHl b) := ⟨rfl, _, _, rfl, rfl⟩

theorem setBR (b : Fin 8) (r : Reg8) : Statement (.setBR b r) := ⟨rfl, _, _, rfl, rfl⟩

theorem setBHl (b : Fin 8) : Statement (.setBHl b) := ⟨rfl, _, _, rfl, rfl⟩

end LengthAgrees

end Sys2Proof.Laws
end

