-- ==== Sys2Proof/Tests/Slice0.lean ====
section
/-! SUPPORT. The model's own tests and the witnesses of the statements. Every expected value comes from the spec: words are
written bit by bit from the encodings the rules print, the vectors are those of 95_test_vectors.md under its names (one step each),
and a test that is no vector there names the rule it was worked out from by hand. -/

namespace Sys2Proof.Tests

open Sys2Proof Sys2Proof.Machine

/-! ### Well-formedness: its one check is that the prefix byte is spelled as the instruction it stands for (log entry 6) -/

theorem test_prefix_spelling_refused : (Instr.prefixCb 0x00).wellFormed = false := by decide

theorem test_instructions_well_formed :
    (Instr.nop).wellFormed = true ∧ (Instr.rlcR .b).wellFormed = true ∧ (Instr.undefFD).wellFormed = true := by decide

/-! ### Decoding: every constructor, from the encoding its rule prints -/

/-- Each word decodes, with nothing left over, to the instruction beside it. -/
abbrev DecodesAll (l : List (List Byte × Instr)) : Prop := ∀ p ∈ l, decode p.1 = .ok (p.2, [])

theorem test_decode_load8 : DecodesAll
    [([0b01000111], .ldRR .b .a), ([0b00011110, 0xFF], .ldRN .e 0xFF), ([0b01101110], .ldRHl .l),
     ([0b01110000], .ldHlR .b), ([0b00110110, 0x3C], .ldHlN 0x3C), ([0b00001010], .ldABc),
     ([0b00011010], .ldADe), ([0b00000010], .ldBcA), ([0b00010010], .ldDeA),
     ([0b11111010, 0x07, 0xFF], .ldANn 0xFF07)] := by decide

theorem test_decode_load8_high_page_and_step : DecodesAll
    [([0b11101010, 0x04, 0xFF], .ldNnA 0xFF04), ([0b11110010], .ldhAC), ([0b11100010], .ldhCA),
     ([0b11110000, 0x80], .ldhAN 0x80), ([0b11100000, 0x06], .ldhNA 0x06), ([0b00111010], .ldAHlDec),
     ([0b00110010], .ldHlDecA), ([0b00101010], .ldAHlInc), ([0b00100010], .ldHlIncA)] := by decide

theorem test_decode_load16 : DecodesAll
    [([0b00000001, 0x34, 0x12], .ldRrNn .bc 0x1234), ([0b00001000, 0xFF, 0xC0], .ldNnSp 0xC0FF),
     ([0b11111001], .ldSpHl), ([0b11111000, 0x80], .ldHlSpE 0x80), ([0b11110101], .push .af),
     ([0b11000001], .pop .bc), ([0b00001001], .addHlRr .bc), ([0b00110011], .incRr .sp),
     ([0b00011011], .decRr .de), ([0b11101000, 0xFF], .addSpE 0xFF)] := by decide

theorem test_decode_add_and_sub : DecodesAll
    [([0b10000000], .addAR .b), ([0b10000110], .addAHl), ([0b11000110, 0x38], .addAN 0x38),
     ([0b10001001], .adcAR .c), ([0b10001110], .adcAHl), ([0b11001110, 0x0F], .adcAN 0x0F),
     ([0b10010010], .subR .d), ([0b10010110], .subHl), ([0b11010110, 0x01], .subN 0x01),
     ([0b10011011], .sbcAR .e), ([0b10011110], .sbcAHl), ([0b11011110, 0x00], .sbcAN 0x00)] := by decide

theorem test_decode_logic_and_compare : DecodesAll
    [([0b10100100], .andR .h), ([0b10100110], .andHl), ([0b11100110, 0x0F], .andN 0x0F),
     ([0b10101101], .xorR .l), ([0b10101110], .xorHl), ([0b11101110, 0xFF], .xorN 0xFF), ([0b10110111], .orR .a),
     ([0b10110110], .orHl), ([0b11110110, 0x01], .orN 0x01), ([0b10111000], .cpR .b), ([0b10111110], .cpHl),
     ([0b11111110, 0x90], .cpN 0x90)] := by decide

theorem test_decode_inc_dec_and_adjust : DecodesAll
    [([0b00000100], .incR .b), ([0b00110100], .incHl), ([0b00101101], .decR .l), ([0b00110101], .decHl),
     ([0b00100111], .daa), ([0b00101111], .cpl), ([0b00110111], .scf), ([0b00111111], .ccf)] := by decide

theorem test_decode_rotates : DecodesAll
    [([0b00000111], .rlca), ([0b00001111], .rrca), ([0b00010111], .rla), ([0b00011111], .rra),
     ([0xCB, 0b00000111], .rlcR .a), ([0xCB, 0b00000110], .rlcHl), ([0xCB, 0b00001011], .rrcR .e),
     ([0xCB, 0b00001110], .rrcHl), ([0xCB, 0b00010000], .rlR .b), ([0xCB, 0b00010110], .rlHl),
     ([0xCB, 0b00011001], .rrR .c), ([0xCB, 0b00011110], .rrHl)] := by decide

theorem test_decode_shifts_and_bits : DecodesAll
    [([0xCB, 0b00100010], .slaR .d), ([0xCB, 0b00100110], .slaHl), ([0xCB, 0b00101100], .sraR .h),
     ([0xCB, 0b00101110], .sraHl), ([0xCB, 0b00110101], .swapR .l), ([0xCB, 0b00110110], .swapHl),
     ([0xCB, 0b00111111], .srlR .a), ([0xCB, 0b00111110], .srlHl), ([0xCB, 0b01111000], .bitBR 7 .b),
     ([0xCB, 0b01110110], .bitBHl 6), ([0xCB, 0b10100001], .resBR 4 .c), ([0xCB, 0b10011110], .resBHl 3),
     ([0xCB, 0b11001011], .setBR 1 .e), ([0xCB, 0b11010110], .setBHl 2)] := by decide

theorem test_decode_control : DecodesAll
    [([0b11000011, 0x50, 0x01], .jpNn 0x0150), ([0b11000010, 0x34, 0x12], .jpCcNn .nz 0x1234),
     ([0b11101001], .jpHl), ([0b00011000, 0xFE], .jrE 0xFE), ([0b00101000, 0x10], .jrCcE .z 0x10),
     ([0b11001101, 0x00, 0xC8], .callNn 0xC800), ([0b11010100, 0x00, 0x40], .callCcNn .nc 0x4000),
     ([0b11001001], .ret), ([0b11011000], .retCc .c), ([0b11011001], .reti), ([0b11110111], .rst 6)] := by decide

theorem test_decode_system : DecodesAll
    [([0b00000000], .nop), ([0b01110110], .halt), ([0b11110011], .di), ([0b11111011], .ei),
     ([0b11001011, 0b00000000], .rlcR .b)] := by decide

theorem test_decode_stop_is_one_byte : decode [0b00010000, 0x00] = .ok (.stop, [0x00]) := by decide

theorem test_decode_undefined : DecodesAll
    [([0b11010011], .undefD3), ([0b11011011], .undefDB), ([0b11011101], .undefDD), ([0b11100011], .undefE3),
     ([0b11100100], .undefE4), ([0b11101011], .undefEB), ([0b11101100], .undefEC), ([0b11101101], .undefED),
     ([0b11110100], .undefF4), ([0b11111100], .undefFC), ([0b11111101], .undefFD)] := by decide

theorem test_decode_too_short :
    decode [] = .error .noBytes ∧ decode [0xCB] = .error .truncated ∧ decode [0xC3, 0x50] = .error .truncated := by
  decide

/-! ### One instruction each, devices left out (95_test_vectors.md section 2.1) -/

/-- The start state of the vectors: reset with `boot` clear, `SP` = 0xD000, `PC` = 0xC000 and the bytes there. -/
def start (bytes : List Byte) : State :=
  ((State.setSp { State.reset with boot := false } 0xD000).setPc 0xC000).placeBytes 0xC000 bytes

/-- Part (4) of one step: fetch and execute, then look. -/
def runs {α : Type} (s : State) (look : State → α) : Option α :=
  match exec s.fetchInstr.1 s.fetchInstr.2 with
  | .next t => some (look t)
  | .fault _ => none
  | .refused _ => none

/-- One whole step, then look. -/
def steps {α : Type} (s : State) (look : State → α) : Option α :=
  match step s with
  | .next t => some (look t)
  | .fault _ => none
  | .refused _ => none

/-! ### 8-bit loads and stores -/

/-- LD8-1: `LD B,A`. -/
theorem test_LD8_1 :
    (runs ((start [0x47]).setReg .a 0x9C) fun t => (t.flags.toByte, t.regs.b, t.regs.pc, t.cost)) =
      some (0x00, 0x9C, 0xC001, 1) := by decide

/-- LD8-3: `LD E,0xFF`. -/
theorem test_LD8_3 :
    (runs (start [0x1E, 0xFF]) fun t => (t.flags.toByte, t.regs.e, t.regs.pc, t.cost)) =
      some (0x00, 0xFF, 0xC002, 2) := by decide

/-- LD8-4: `LD L,(HL)`. -/
theorem test_LD8_4 :
    (runs (((start [0x6E]).setPair .hl 0xC123).writeByte 0xC123 0x77) fun t =>
      (t.flags.toByte, t.regs.l, t.regs.pc, t.cost)) =
      some (0x00, 0x77, 0xC001, 2) := by decide

/-- LD8-7: `LD (HL),L`. -/
theorem test_LD8_7 :
    (runs ((start [0x75]).setPair .hl 0xC880) fun t => (t.flags.toByte, t.regs.pc, t.peek 0xC880, t.cost)) =
      some (0x00, 0xC001, 0x80, 2) := by decide

/-- LD8-8: `LD (HL),0x3C`. -/
theorem test_LD8_8 :
    (runs ((start [0x36, 0x3C]).setPair .hl 0xFE00) fun t => (t.flags.toByte, t.regs.pc, t.peek 0xFE00, t.cost)) =
      some (0x00, 0xC002, 0x3C, 3) := by decide

/-- LD8-9: `LD A,(BC)`. -/
theorem test_LD8_9 :
    (runs ((start [0x0A]).setPair .bc 0xFEA0) fun t => (t.regs.a, t.flags.toByte, t.regs.pc, t.cost)) =
      some (0xFF, 0x00, 0xC001, 2) := by decide

/-- LD8-10: `LD A,(DE)`. -/
theorem test_LD8_10 :
    (runs ((start [0x1A]).setPair .de 0xFF41) fun t => (t.regs.a, t.flags.toByte, t.regs.pc, t.cost)) =
      some (0x86, 0x00, 0xC001, 2) := by decide

/-- LD8-11: `LD (BC),A`. -/
theorem test_LD8_11 :
    (runs (((start [0x02]).setPair .bc 0xA000).setReg .a 0x42) fun t =>
      (t.flags.toByte, t.regs.pc, t.peek 0xA000, t.cost)) =
      some (0x00, 0xC001, 0x42, 2) := by decide

/-- LD8-12: `LD (DE),A`. -/
theorem test_LD8_12 :
    (runs (((start [0x12]).setPair .de 0xFF44).setReg .a 0x55) fun t => (t.flags.toByte, t.regs.pc, t.cost)) =
      some (0x00, 0xC001, 2) := by decide

/-- LD8-13: `LD A,(0xFF07)`. -/
theorem test_LD8_13 :
    (runs ((start [0xFA, 0x07, 0xFF]).writeByte 0xFF07 0b101) fun t =>
      (t.regs.a, t.flags.toByte, t.regs.pc, t.cost)) =
      some (0xFD, 0x00, 0xC003, 4) := by decide

/-- LD8-14: `LD (0xFF04),A`. -/
theorem test_LD8_14 :
    (runs ({ (start [0xEA, 0x04, 0xFF]).setReg .a 0x99 with timer := { State.reset.timer with div := 0x37 } }) fun t =>
      (t.flags.toByte, t.regs.pc, t.timer.div, t.cost)) =
      some (0x00, 0xC003, 0x00, 4) := by decide

/-- LD8-15: `LDH A,(C)`. -/
theorem test_LD8_15 :
    (runs (((start [0xF2]).setReg .c 0xFF).writeByte 0xFFFF 0x15) fun t =>
      (t.regs.a, t.flags.toByte, t.regs.pc, t.cost)) =
      some (0x15, 0x00, 0xC001, 2) := by decide

/-- LD8-16: `LDH (C),A`. -/
theorem test_LD8_16 :
    (runs (((start [0xE2]).setReg .c 0x41).setReg .a 0xFF) fun t => (t.flags.toByte, t.regs.pc, t.ppu.stat, t.cost)) =
      some (0x00, 0xC001, 0b1111, 2) := by decide

/-- LD8-17: `LDH A,(0x00)`. -/
theorem test_LD8_17 :
    (runs ({ start [0xF0, 0x00] with joypad := { psel := 0b10, buttons := 0x05 } }) fun t =>
      (t.regs.a, t.flags.toByte, t.regs.pc, t.cost)) =
      some (0xEA, 0x00, 0xC002, 3) := by decide

/-- LD8-18: `LDH (0x00),A`. -/
theorem test_LD8_18 :
    (runs ((start [0xE0, 0x00]).setReg .a 0x10) fun t => (t.flags.toByte, t.regs.pc, t.joypad.psel, t.cost)) =
      some (0x00, 0xC002, 0b01, 3) := by decide

/-- LD8-19: `LD A,(HL-)`. -/
theorem test_LD8_19 :
    (runs ((start [0x3A]).setPair .hl 0x0000) fun t => (t.flags.toByte, t.regs.h, t.regs.l, t.regs.pc, t.cost)) =
      some (0x00, 0xFF, 0xFF, 0xC001, 2) := by decide

/-- LD8-20: `LD (HL-),A`. -/
theorem test_LD8_20 :
    (runs (((start [0x32]).setPair .hl 0xC000).setReg .a 0x5A) fun t =>
      (t.flags.toByte, t.regs.h, t.regs.l, t.regs.pc, t.peek 0xC000, t.cost)) =
      some (0x00, 0xBF, 0xFF, 0xC001, 0x5A, 2) := by decide

/-- LD8-21: `LD A,(HL+)`. -/
theorem test_LD8_21 :
    (runs (((start [0x2A]).setPair .hl 0xFFFF).writeByte 0xFFFF 0x1F) fun t =>
      (t.regs.a, t.flags.toByte, t.regs.h, t.regs.l, t.regs.pc, t.cost)) =
      some (0x1F, 0x00, 0x00, 0x00, 0xC001, 2) := by decide

/-- LD8-22: `LD (HL+),A`. -/
theorem test_LD8_22 :
    (runs (((start [0x22]).setPair .hl 0xDFFF).setReg .a 0x01) fun t =>
      (t.flags.toByte, t.regs.h, t.regs.l, t.regs.pc, t.peek 0xDFFF, t.cost)) =
      some (0x00, 0xE0, 0x00, 0xC001, 0x01, 2) := by decide

/-! ### 16-bit loads and the stack -/

/-- LD16-1: `LD BC,0x1234`. -/
theorem test_LD16_1 :
    (runs (start [0x01, 0x34, 0x12]) fun t => (t.flags.toByte, t.regs.b, t.regs.c, t.regs.pc, t.cost)) =
      some (0x00, 0x12, 0x34, 0xC003, 3) := by decide

/-- LD16-3: `LD (0xFFFF),SP`. -/
theorem test_LD16_3 :
    (runs ((start [0x08, 0xFF, 0xFF]).setSp 0xABCD) fun t => (t.flags.toByte, t.regs.pc, t.ie, t.cost)) =
      some (0x00, 0xC003, 0xCD, 5) := by decide

/-- LD16-4: `LD SP,HL`. -/
theorem test_LD16_4 :
    (runs ((start [0xF9]).setPair .hl 0xFFFE) fun t => (t.flags.toByte, t.regs.sp, t.regs.pc, t.cost)) =
      some (0x00, 0xFFFE, 0xC001, 2) := by decide

/-- LD16-5: `LD HL,SP+0x7F`. -/
theorem test_LD16_5 :
    (runs (((start [0xF8, 0x7F]).setSp 0xFF81).setPair .hl 0xAAAA) fun t =>
      (t.flags.toByte, t.regs.h, t.regs.l, t.regs.pc, t.cost)) =
      some (0x30, 0x00, 0x00, 0xC002, 3) := by decide

/-- LD16-6: `LD HL,SP-128`. -/
theorem test_LD16_6 :
    (runs ((((start [0xF8, 0x80]).setSp 0x0080).setFlags (Flags.ofByte 0xF0)).setPair .hl 0xAAAA) fun t =>
      (t.flags.toByte, t.regs.h, t.regs.l, t.regs.pc, t.cost)) =
      some (0x10, 0x00, 0x00, 0xC002, 3) := by decide

/-- LD16-9: `PUSH AF`. -/
theorem test_LD16_9 :
    (runs ((((start [0xF5]).setReg .a 0x12).setFlags (Flags.ofByte 0xF0)).setSp 0xC002) fun t =>
      (t.flags.toByte, t.regs.sp, t.regs.pc, t.peek 0xC000, t.peek 0xC001, t.cost)) =
      some (0xF0, 0xC000, 0xC001, 0xF0, 0x12, 4) := by decide

/-- LD16-10: `PUSH HL`. -/
theorem test_LD16_10 :
    (runs (((start [0xE5]).setPair .hl 0xBEEF).setSp 0x0001) fun t =>
      (t.flags.toByte, t.regs.sp, t.regs.pc, t.ie, t.cost)) =
      some (0x00, 0xFFFF, 0xC001, 0xEF, 4) := by decide

/-- LD16-12: `POP AF`. -/
theorem test_LD16_12 :
    (runs ((((start [0xF1]).setSp 0xC100).writeByte 0xC100 0x0F).writeByte 0xC101 0xAA) fun t =>
      (t.regs.a, t.flags.toByte, t.regs.sp, t.regs.pc, t.cost)) =
      some (0xAA, 0x00, 0xC102, 0xC001, 3) := by decide

/-- LD16-13: `POP BC`. -/
theorem test_LD16_13 :
    (runs (((start [0xC1]).setSp 0xFFFF).writeByte 0xFFFF 0x1F) fun t =>
      (t.flags.toByte, t.regs.c, t.regs.sp, t.regs.pc, t.cost)) =
      some (0x00, 0x1F, 0x0001, 0xC001, 3) := by decide

/-! ### 8-bit arithmetic and logic -/

/-- ALU8-1: `ADD A,B`. -/
theorem test_ALU8_1 :
    (runs (((start [0x80]).setReg .a 0x0F).setReg .b 0x01) fun t => (t.regs.a, t.flags.toByte, t.regs.pc, t.cost)) =
      some (0x10, 0x20, 0xC001, 1) := by decide

/-- ALU8-4: `ADD A,0x00`. -/
theorem test_ALU8_4 :
    (runs (((start [0xC6, 0x00]).setReg .a 0x00).setFlags (Flags.ofByte 0xF0)) fun t =>
      (t.flags.toByte, t.regs.pc, t.cost)) =
      some (0x80, 0xC002, 2) := by decide

/-- ALU8-5: `ADC A,C`. -/
theorem test_ALU8_5 :
    (runs ((((start [0x89]).setReg .a 0xFF).setReg .c 0x00).setFlags (Flags.ofByte 0x10)) fun t =>
      (t.regs.a, t.flags.toByte, t.regs.pc, t.cost)) =
      some (0x00, 0xB0, 0xC001, 1) := by decide

/-- ALU8-7: `ADC A,0x0F`. -/
theorem test_ALU8_7 :
    (runs (((start [0xCE, 0x0F]).setReg .a 0x00).setFlags (Flags.ofByte 0x10)) fun t =>
      (t.regs.a, t.flags.toByte, t.regs.pc, t.cost)) =
      some (0x10, 0x20, 0xC002, 2) := by decide

/-- ALU8-8: `SUB B`. -/
theorem test_ALU8_8 :
    (runs (((start [0x90]).setReg .a 0x00).setReg .b 0x01) fun t => (t.regs.a, t.flags.toByte, t.regs.pc, t.cost)) =
      some (0xFF, 0x70, 0xC001, 1) := by decide

/-- ALU8-11: `SBC A,B`. -/
theorem test_ALU8_11 :
    (runs ((((start [0x98]).setReg .a 0x00).setReg .b 0xFF).setFlags (Flags.ofByte 0x10)) fun t =>
      (t.flags.toByte, t.regs.pc, t.cost)) =
      some (0xF0, 0xC001, 1) := by decide

/-- ALU8-12: `SBC A,0x00`. -/
theorem test_ALU8_12 :
    (runs (((start [0xDE, 0x00]).setReg .a 0x10).setFlags (Flags.ofByte 0x10)) fun t =>
      (t.regs.a, t.flags.toByte, t.regs.pc, t.cost)) =
      some (0x0F, 0x60, 0xC002, 2) := by decide

/-- ALU8-14: `AND 0x0F`. -/
theorem test_ALU8_14 :
    (runs ((start [0xE6, 0x0F]).setReg .a 0xF0) fun t => (t.regs.a, t.flags.toByte, t.regs.pc, t.cost)) =
      some (0x00, 0xA0, 0xC002, 2) := by decide

/-- ALU8-15: `AND A`. -/
theorem test_ALU8_15 :
    (runs (((start [0xA7]).setReg .a 0x80).setFlags (Flags.ofByte 0x50)) fun t =>
      (t.flags.toByte, t.regs.pc, t.cost)) =
      some (0x20, 0xC001, 1) := by decide

/-- ALU8-16: `XOR A`. -/
theorem test_ALU8_16 :
    (runs (((start [0xAF]).setReg .a 0x3C).setFlags (Flags.ofByte 0xF0)) fun t =>
      (t.regs.a, t.flags.toByte, t.regs.pc, t.cost)) =
      some (0x00, 0x80, 0xC001, 1) := by decide

/-- ALU8-17: `XOR 0xFF`. -/
theorem test_ALU8_17 :
    (runs ((start [0xEE, 0xFF]).setReg .a 0x0F) fun t => (t.regs.a, t.flags.toByte, t.regs.pc, t.cost)) =
      some (0xF0, 0x00, 0xC002, 2) := by decide

/-- ALU8-18: `OR A`. -/
theorem test_ALU8_18 :
    (runs (((start [0xB7]).setReg .a 0x00).setFlags (Flags.ofByte 0x70)) fun t =>
      (t.flags.toByte, t.regs.pc, t.cost)) =
      some (0x80, 0xC001, 1) := by decide

/-- ALU8-19: `OR (HL)`. -/
theorem test_ALU8_19 :
    (runs (((start [0xB6]).setReg .a 0x01).setPair .hl 0xFEA5) fun t =>
      (t.regs.a, t.flags.toByte, t.regs.pc, t.cost)) =
      some (0xFF, 0x00, 0xC001, 2) := by decide

/-- ALU8-20: `CP 0x90`. -/
theorem test_ALU8_20 :
    (runs ((start [0xFE, 0x90]).setReg .a 0x8F) fun t => (t.flags.toByte, t.regs.pc, t.cost)) =
      some (0x50, 0xC002, 2) := by decide

/-- ALU8-21: `CP B`. -/
theorem test_ALU8_21 :
    (runs (((start [0xB8]).setReg .a 0x90).setReg .b 0x90) fun t => (t.flags.toByte, t.regs.pc, t.cost)) =
      some (0xC0, 0xC001, 1) := by decide

/-- ALU8-22: `CP (HL)`. -/
theorem test_ALU8_22 :
    (runs ((((start [0xBE]).setReg .a 0x00).setPair .hl 0xC300).writeByte 0xC300 0x01) fun t =>
      (t.flags.toByte, t.regs.pc, t.cost)) =
      some (0x70, 0xC001, 2) := by decide

/-- ALU8-24: `INC C`. -/
theorem test_ALU8_24 :
    (runs (((start [0x0C]).setReg .c 0x0F).setFlags (Flags.ofByte 0xD0)) fun t =>
      (t.flags.toByte, t.regs.c, t.regs.pc, t.cost)) =
      some (0x30, 0x10, 0xC001, 1) := by decide

/-- ALU8-26: `INC (HL)`. -/
theorem test_ALU8_26 :
    (runs ({ (start [0x34]).setPair .hl 0xFF04 with timer := { State.reset.timer with div := 0x12 } }) fun t =>
      (t.flags.toByte, t.regs.pc, t.timer.div, t.cost)) =
      some (0x00, 0xC001, 0x00, 3) := by decide

/-- ALU8-27: `DEC B`. -/
theorem test_ALU8_27 :
    (runs (((start [0x05]).setReg .b 0x00).setFlags (Flags.ofByte 0x10)) fun t =>
      (t.flags.toByte, t.regs.b, t.regs.pc, t.cost)) =
      some (0x70, 0xFF, 0xC001, 1) := by decide

/-- ALU8-29: `DEC (HL)`. -/
theorem test_ALU8_29 :
    (runs (((start [0x35]).setPair .hl 0xC400).writeByte 0xC400 0x01) fun t =>
      (t.flags.toByte, t.regs.pc, t.peek 0xC400, t.cost)) =
      some (0xC0, 0xC001, 0x00, 3) := by decide

/-- ALU8-30: `DAA`. -/
theorem test_ALU8_30 :
    (runs (((start [0x27]).setReg .a 0x9A).setFlags (Flags.ofByte 0x00)) fun t =>
      (t.regs.a, t.flags.toByte, t.regs.pc, t.cost)) =
      some (0x00, 0x90, 0xC001, 1) := by decide

/-- ALU8-33: `DAA`. -/
theorem test_ALU8_33 :
    (runs (((start [0x27]).setReg .a 0xA0).setFlags (Flags.ofByte 0x50)) fun t =>
      (t.regs.a, t.flags.toByte, t.regs.pc, t.cost)) =
      some (0x40, 0x50, 0xC001, 1) := by decide

/-- ALU8-36: `CPL`. -/
theorem test_ALU8_36 :
    (runs (((start [0x2F]).setReg .a 0x00).setFlags (Flags.ofByte 0x90)) fun t =>
      (t.regs.a, t.flags.toByte, t.regs.pc, t.cost)) =
      some (0xFF, 0xF0, 0xC001, 1) := by decide

/-- ALU8-37: `SCF`. -/
theorem test_ALU8_37 :
    (runs ((start [0x37]).setFlags (Flags.ofByte 0x60)) fun t => (t.flags.toByte, t.regs.pc, t.cost)) =
      some (0x10, 0xC001, 1) := by decide

/-- ALU8-38: `CCF`. -/
theorem test_ALU8_38 :
    (runs ((start [0x3F]).setFlags (Flags.ofByte 0xF0)) fun t => (t.flags.toByte, t.regs.pc, t.cost)) =
      some (0x80, 0xC001, 1) := by decide

/-! ### 16-bit arithmetic -/

/-- ALU16-1: `ADD HL,BC`. -/
theorem test_ALU16_1 :
    (runs ((((start [0x09]).setPair .hl 0x0FFF).setPair .bc 0x0001).setFlags (Flags.ofByte 0x80)) fun t =>
      (t.flags.toByte, t.regs.h, t.regs.l, t.regs.pc, t.cost)) =
      some (0xA0, 0x10, 0x00, 0xC001, 2) := by decide

/-- ALU16-2: `ADD HL,DE`. -/
theorem test_ALU16_2 :
    (runs (((start [0x19]).setPair .hl 0xFFFF).setPair .de 0x0001) fun t =>
      (t.flags.toByte, t.regs.h, t.regs.l, t.regs.pc, t.cost)) =
      some (0x30, 0x00, 0x00, 0xC001, 2) := by decide

/-- ALU16-5: `INC SP`. -/
theorem test_ALU16_5 :
    (runs (((start [0x33]).setSp 0xFFFF).setFlags (Flags.ofByte 0xF0)) fun t =>
      (t.flags.toByte, t.regs.sp, t.regs.pc, t.cost)) =
      some (0xF0, 0x0000, 0xC001, 2) := by decide

/-- ALU16-7: `DEC BC`. -/
theorem test_ALU16_7 :
    (runs ((start [0x0B]).setPair .bc 0x0000) fun t => (t.flags.toByte, t.regs.b, t.regs.c, t.regs.pc, t.cost)) =
      some (0x00, 0xFF, 0xFF, 0xC001, 2) := by decide

/-- ALU16-10: `ADD SP,-1`. -/
theorem test_ALU16_10 :
    (runs ((start [0xE8, 0xFF]).setSp 0x0001) fun t => (t.flags.toByte, t.regs.sp, t.regs.pc, t.cost)) =
      some (0x30, 0x0000, 0xC002, 4) := by decide

/-- ALU16-12: `ADD SP,-128`. -/
theorem test_ALU16_12 :
    (runs ((start [0xE8, 0x80]).setSp 0xFF80) fun t => (t.flags.toByte, t.regs.sp, t.regs.pc, t.cost)) =
      some (0x10, 0xFF00, 0xC002, 4) := by decide

/-! ### Rotates, shifts and bits -/

/-- ROT-1: `RLCA`. -/
theorem test_ROT_1 :
    (runs (((start [0x07]).setReg .a 0x80).setFlags (Flags.ofByte 0xE0)) fun t =>
      (t.regs.a, t.flags.toByte, t.regs.pc, t.cost)) =
      some (0x01, 0x10, 0xC001, 1) := by decide

/-- ROT-3: `RLA`. -/
theorem test_ROT_3 :
    (runs (((start [0x17]).setReg .a 0x80).setFlags (Flags.ofByte 0x00)) fun t =>
      (t.regs.a, t.flags.toByte, t.regs.pc, t.cost)) =
      some (0x00, 0x10, 0xC001, 1) := by decide

/-- ROT-4: `RRCA`. -/
theorem test_ROT_4 :
    (runs ((start [0x0F]).setReg .a 0x01) fun t => (t.regs.a, t.flags.toByte, t.regs.pc, t.cost)) =
      some (0x80, 0x10, 0xC001, 1) := by decide

/-- ROT-5: `RRA`. -/
theorem test_ROT_5 :
    (runs (((start [0x1F]).setReg .a 0x01).setFlags (Flags.ofByte 0x10)) fun t =>
      (t.regs.a, t.flags.toByte, t.regs.pc, t.cost)) =
      some (0x80, 0x10, 0xC001, 1) := by decide

/-- ROT-6: `RLC A`. -/
theorem test_ROT_6 :
    (runs ((start [0xCB, 0x07]).setReg .a 0x00) fun t => (t.flags.toByte, t.regs.pc, t.cost)) =
      some (0x80, 0xC002, 2) := by decide

/-- ROT-7: `RLC (HL)`. -/
theorem test_ROT_7 :
    (runs (((start [0xCB, 0x06]).setPair .hl 0xC500).writeByte 0xC500 0x80) fun t =>
      (t.flags.toByte, t.regs.pc, t.peek 0xC500, t.cost)) =
      some (0x10, 0xC002, 0x01, 4) := by decide

/-- ROT-8: `RRC E`. -/
theorem test_ROT_8 :
    (runs ((start [0xCB, 0x0B]).setReg .e 0xFE) fun t => (t.flags.toByte, t.regs.e, t.regs.pc, t.cost)) =
      some (0x00, 0x7F, 0xC002, 2) := by decide

/-- ROT-9: `RL B`. -/
theorem test_ROT_9 :
    (runs (((start [0xCB, 0x10]).setReg .b 0x7F).setFlags (Flags.ofByte 0x10)) fun t =>
      (t.flags.toByte, t.regs.b, t.regs.pc, t.cost)) =
      some (0x00, 0xFF, 0xC002, 2) := by decide

/-- ROT-10: `RR (HL)`. -/
theorem test_ROT_10 :
    (runs ((((start [0xCB, 0x1E]).setPair .hl 0xC500).setFlags (Flags.ofByte 0x10)).writeByte 0xC500 0x00) fun t =>
      (t.flags.toByte, t.regs.pc, t.peek 0xC500, t.cost)) =
      some (0x00, 0xC002, 0x80, 4) := by decide

/-- ROT-11: `SLA A`. -/
theorem test_ROT_11 :
    (runs ((start [0xCB, 0x27]).setReg .a 0xC0) fun t => (t.regs.a, t.flags.toByte, t.regs.pc, t.cost)) =
      some (0x80, 0x10, 0xC002, 2) := by decide

/-- ROT-12: `SRA B`. -/
theorem test_ROT_12 :
    (runs ((start [0xCB, 0x28]).setReg .b 0x81) fun t => (t.flags.toByte, t.regs.b, t.regs.pc, t.cost)) =
      some (0x10, 0xC0, 0xC002, 2) := by decide

/-- ROT-13: `SRA (HL)`. -/
theorem test_ROT_13 :
    (runs ((start [0xCB, 0x2E]).setPair .hl 0x3000) fun t => (t.flags.toByte, t.regs.pc, t.cost)) =
      some (0x80, 0xC002, 4) := by decide

/-- ROT-14: `SWAP (HL)`. -/
theorem test_ROT_14 :
    (runs ((((start [0xCB, 0x36]).setPair .hl 0xC500).setFlags (Flags.ofByte 0xF0)).writeByte 0xC500 0xA5) fun t =>
      (t.flags.toByte, t.regs.pc, t.peek 0xC500, t.cost)) =
      some (0x00, 0xC002, 0x5A, 4) := by decide

/-- ROT-15: `SWAP B`. -/
theorem test_ROT_15 :
    (runs (((start [0xCB, 0x30]).setReg .b 0x00).setFlags (Flags.ofByte 0x10)) fun t =>
      (t.flags.toByte, t.regs.pc, t.cost)) =
      some (0x80, 0xC002, 2) := by decide

/-- ROT-16: `SRL H`. -/
theorem test_ROT_16 :
    (runs ((start [0xCB, 0x3C]).setReg .h 0x80) fun t => (t.flags.toByte, t.regs.h, t.regs.pc, t.cost)) =
      some (0x00, 0x40, 0xC002, 2) := by decide

/-- ROT-17: `SRL (HL)`. -/
theorem test_ROT_17 :
    (runs (((start [0xCB, 0x3E]).setPair .hl 0xC500).writeByte 0xC500 0x01) fun t =>
      (t.flags.toByte, t.regs.pc, t.peek 0xC500, t.cost)) =
      some (0x90, 0xC002, 0x00, 4) := by decide

/-- ROT-18: `BIT 0,B`. -/
theorem test_ROT_18 :
    (runs (((start [0xCB, 0x40]).setReg .b 0xFE).setFlags (Flags.ofByte 0x10)) fun t =>
      (t.flags.toByte, t.regs.pc, t.cost)) =
      some (0xB0, 0xC002, 2) := by decide

/-- ROT-20: `BIT 6,(HL)`. -/
theorem test_ROT_20 :
    (runs ((start [0xCB, 0x76]).setPair .hl 0xFF41) fun t => (t.flags.toByte, t.regs.pc, t.cost)) =
      some (0xA0, 0xC002, 3) := by decide

/-- ROT-21: `RES 3,(HL)`. -/
theorem test_ROT_21 :
    (runs (((start [0xCB, 0x9E]).setPair .hl 0xFF0F).setIf 0x1F) fun t =>
      (t.flags.toByte, t.regs.pc, t.iflag, t.cost)) =
      some (0x00, 0xC002, 0x17, 4) := by decide

/-- ROT-22: `RES 7,H`. -/
theorem test_ROT_22 :
    (runs ((start [0xCB, 0xBC]).setReg .h 0xFF) fun t => (t.flags.toByte, t.regs.h, t.regs.pc, t.cost)) =
      some (0x00, 0x7F, 0xC002, 2) := by decide

/-- ROT-23: `SET 2,(HL)`. -/
theorem test_ROT_23 :
    (runs ((start [0xCB, 0xD6]).setPair .hl 0xFF07) fun t => (t.flags.toByte, t.regs.pc, t.timer.tac, t.cost)) =
      some (0x00, 0xC002, 0b100, 4) := by decide

/-- ROT-24: `SET 1,E`. -/
theorem test_ROT_24 :
    (runs ((start [0xCB, 0xCB]).setReg .e 0x00) fun t => (t.flags.toByte, t.regs.e, t.regs.pc, t.cost)) =
      some (0x00, 0x02, 0xC002, 2) := by decide

/-! ### Control transfers -/

/-- CTL-1: `JP 0x0150`. -/
theorem test_CTL_1 :
    (runs (start [0xC3, 0x50, 0x01]) fun t => (t.flags.toByte, t.regs.pc, t.cost)) =
      some (0x00, 0x0150, 4) := by decide

/-- CTL-2: `JP NZ,0x1234`. -/
theorem test_CTL_2 :
    (runs ((start [0xC2, 0x34, 0x12]).setFlags (Flags.ofByte 0x80)) fun t => (t.flags.toByte, t.regs.pc, t.cost)) =
      some (0x80, 0xC003, 3) := by decide

/-- CTL-3: `JP C,0x1234`. -/
theorem test_CTL_3 :
    (runs ((start [0xDA, 0x34, 0x12]).setFlags (Flags.ofByte 0x10)) fun t => (t.flags.toByte, t.regs.pc, t.cost)) =
      some (0x10, 0x1234, 4) := by decide

/-- CTL-4: `JP HL`. -/
theorem test_CTL_4 :
    (runs ((start [0xE9]).setPair .hl 0xFFFF) fun t => (t.flags.toByte, t.regs.pc, t.cost)) =
      some (0x00, 0xFFFF, 1) := by decide

/-- CTL-6: `JR -128`. -/
theorem test_CTL_6 :
    (runs (start [0x18, 0x80]) fun t => (t.flags.toByte, t.regs.pc, t.cost)) =
      some (0x00, 0xBF82, 3) := by decide

/-- CTL-8: `JR Z,+16`. -/
theorem test_CTL_8 :
    (runs ((start [0x28, 0x10]).setFlags (Flags.ofByte 0x00)) fun t => (t.flags.toByte, t.regs.pc, t.cost)) =
      some (0x00, 0xC002, 2) := by decide

/-- CTL-9: `JR NC,-3`. -/
theorem test_CTL_9 :
    (runs ((start [0x30, 0xFD]).setFlags (Flags.ofByte 0x80)) fun t => (t.flags.toByte, t.regs.pc, t.cost)) =
      some (0x80, 0xBFFF, 3) := by decide

/-- CTL-10: `CALL 0xC800`. -/
theorem test_CTL_10 :
    (runs ((start [0xCD, 0x00, 0xC8]).setSp 0xC002) fun t =>
      (t.flags.toByte, t.regs.sp, t.regs.pc, t.peek 0xC000, t.peek 0xC001, t.cost)) =
      some (0x00, 0xC000, 0xC800, 0x03, 0xC0, 6) := by decide

/-- CTL-11: `CALL NZ,0x4000`. -/
theorem test_CTL_11 :
    (runs ((start [0xC4, 0x00, 0x40]).setFlags (Flags.ofByte 0x80)) fun t => (t.flags.toByte, t.regs.pc, t.cost)) =
      some (0x80, 0xC003, 3) := by decide

/-- CTL-12: `CALL Z,0x4000`. -/
theorem test_CTL_12 :
    (runs ((start [0xCC, 0x00, 0x40]).setFlags (Flags.ofByte 0x80)) fun t =>
      (t.flags.toByte, t.regs.sp, t.regs.pc, t.peek 0xCFFE, t.peek 0xCFFF, t.cost)) =
      some (0x80, 0xCFFE, 0x4000, 0x03, 0xC0, 6) := by decide

/-- CTL-13: `RET`. -/
theorem test_CTL_13 :
    (runs ((((start [0xC9]).setSp 0xC100).writeByte 0xC100 0x34).writeByte 0xC101 0x12) fun t =>
      (t.flags.toByte, t.regs.sp, t.regs.pc, t.cost)) =
      some (0x00, 0xC102, 0x1234, 4) := by decide

/-- CTL-14: `RET NC`. -/
theorem test_CTL_14 :
    (runs (((((start [0xD0]).setSp 0xC100).setFlags (Flags.ofByte 0x00)).writeByte 0xC100 0x34).writeByte 0xC101 0x12) fun t =>
      (t.flags.toByte, t.regs.sp, t.regs.pc, t.cost)) =
      some (0x00, 0xC102, 0x1234, 5) := by decide

/-- CTL-15: `RET C`. -/
theorem test_CTL_15 :
    (runs (((((start [0xD8]).setSp 0xC100).setFlags (Flags.ofByte 0x00)).writeByte 0xC100 0x34).writeByte 0xC101 0x12) fun t =>
      (t.flags.toByte, t.regs.pc, t.cost)) =
      some (0x00, 0xC001, 2) := by decide

/-- CTL-16: `RETI`. -/
theorem test_CTL_16 :
    (runs ((((start [0xD9]).setSp 0xC100).writeByte 0xC100 0x34).writeByte 0xC101 0x12) fun t =>
      (t.flags.toByte, t.regs.sp, t.regs.pc, t.ime, t.cost)) =
      some (0x00, 0xC102, 0x1234, true, 4) := by decide

/-- CTL-18: `RST 0x38`. -/
theorem test_CTL_18 :
    (runs ((start [0xFF]).setSp 0x0000) fun t =>
      (t.flags.toByte, t.regs.sp, t.regs.pc, t.ie, t.peek 0xFFFE, t.cost)) =
      some (0x00, 0xFFFE, 0x0038, 0xC0, 0x01, 4) := by decide

/-! ### System instructions -/

/-- SYS-1: `NOP`. -/
theorem test_SYS_1 :
    (runs ((start [0x00]).setFlags (Flags.ofByte 0xF0)) fun t => (t.flags.toByte, t.regs.pc, t.cost)) =
      some (0xF0, 0xC001, 1) := by decide

/-- SYS-2: `HALT`. -/
theorem test_SYS_2 :
    (runs (start [0x76]) fun t => (t.flags.toByte, t.regs.pc, t.halted, t.cost)) =
      some (0x00, 0xC001, true, 1) := by decide

/-- SYS-3: `STOP`. -/
theorem test_SYS_3 :
    (runs (start [0x10, 0x00]) fun t => (t.flags.toByte, t.regs.pc, t.cost)) =
      some (0x00, 0xC001, 1) := by decide

/-- SYS-4: `DI`. -/
theorem test_SYS_4 :
    (runs ((start [0xF3]).setIme true) fun t => (t.flags.toByte, t.regs.pc, t.ime, t.cost)) =
      some (0x00, 0xC001, false, 1) := by decide

/-- SYS-5: `EI`. -/
theorem test_SYS_5 :
    (runs (start [0xFB]) fun t => (t.flags.toByte, t.regs.pc, t.ime, t.cost)) =
      some (0x00, 0xC001, true, 1) := by decide

theorem test_SYS_6_to_16 :
    ([0xD3, 0xDB, 0xDD, 0xE3, 0xE4, 0xEB, 0xEC, 0xED, 0xF4, 0xFC, 0xFD] : List Byte).all fun o =>
      decide ((runs (((start [o]).setReg .a 0x11).setFlags (Flags.ofByte 0x50)) fun t =>
        (t.regs.a, t.flags.toByte, t.regs.pc, t.diags, t.cost)) =
      some (0x11, 0x50, 0xC001, [{ kind := .unimplementedOpcode, addr := 0xC000, byte := o }], 0)) := by decide

/-! ### The `(HL)` and immediate forms without a vector there, worked out by hand -/

/-- The start state with a byte at 0xC100, `HL` pointing there, the accumulator and the flag byte. -/
def startHl (bytes : List Byte) (m a f : Byte) : State :=
  ((((start bytes).writeByte 0xC100 m).setPair .hl 0xC100).setReg .a a).setFlags (Flags.ofByte f)

/-- The accumulator, the byte at 0xC100, the flag byte and the cost. -/
def lookHl (t : State) : Byte × Byte × Byte × Nat := (t.regs.a, t.peek 0xC100, t.flags.toByte, t.cost)

/-- R174: 0x3A + 0xC6 = 0x100. -/
theorem test_add_hl : runs (startHl [0x86] 0xC6 0x3A 0x00) lookHl = some (0x00, 0xC6, 0xB0, 2) := by decide
/-- R177: 0x10 + 0x0F + 1 = 0x20. -/
theorem test_adc_hl : runs (startHl [0x8E] 0x0F 0x10 0x10) lookHl = some (0x20, 0x0F, 0x20, 2) := by decide
/-- R180: 0x20 - 0x30 = -0x10. -/
theorem test_sub_hl : runs (startHl [0x96] 0x30 0x20 0x00) lookHl = some (0xF0, 0x30, 0x50, 2) := by decide
/-- R181: 0x11 - 0x02 = 0x0F. -/
theorem test_sub_n : runs (startHl [0xD6, 0x02] 0x00 0x11 0x10) lookHl = some (0x0F, 0x00, 0x60, 2) := by decide
/-- R183: 0x11 - 0x10 - 1 = 0. -/
theorem test_sbc_hl : runs (startHl [0x9E] 0x10 0x11 0x10) lookHl = some (0x00, 0x10, 0xC0, 2) := by decide
/-- R186. -/
theorem test_and_hl : runs (startHl [0xA6] 0x3C 0x66 0x10) lookHl = some (0x24, 0x3C, 0x20, 2) := by decide
/-- R189. -/
theorem test_xor_hl : runs (startHl [0xAE] 0x3C 0x3C 0x70) lookHl = some (0x00, 0x3C, 0x80, 2) := by decide
/-- R193. -/
theorem test_or_n : runs (startHl [0xF6, 0x0F] 0x00 0x50 0x70) lookHl = some (0x5F, 0x00, 0x00, 2) := by decide
/-- R238: bit 0 goes to bit 7 and to the carry. -/
theorem test_rrc_hl : runs (startHl [0xCB, 0x0E] 0x03 0x00 0x00) lookHl = some (0x00, 0x81, 0x10, 4) := by decide
/-- R240: the carry comes in at bit 0. -/
theorem test_rl_hl : runs (startHl [0xCB, 0x16] 0x80 0x00 0x10) lookHl = some (0x00, 0x01, 0x10, 4) := by decide
/-- R241: the carry comes in at bit 7. -/
theorem test_rr_a : runs (startHl [0xCB, 0x1F] 0x00 0x01 0x00) lookHl = some (0x00, 0x00, 0x90, 2) := by decide
/-- R244. -/
theorem test_sla_hl : runs (startHl [0xCB, 0x26] 0x80 0x00 0x10) lookHl = some (0x00, 0x00, 0x90, 4) := by decide

/-! ### The timer (V-TMR) -/

/-- The reset state with the timer of the vector. -/
def timerStart (tac : BitVec 3) (tima tma div : Byte) (tsub tacc : Nat) : State :=
  { State.reset with timer := { tac := tac, tima := tima, tma := tma, div := div, tsub := tsub, tacc := tacc, traw := 0 } }

theorem test_TMR_1 :
    let t := (timerStart 0b101 0xFF 0x05 0x00 0 0).timerTick 1
    t.timer = { tac := 0b101, tima := 0x05, tma := 0x05, div := 0x00, tsub := 1, tacc := 0, traw := 0 } ∧ t.iflag = 0x04 := by
  decide
theorem test_TMR_3 :
    let t := (timerStart 0b000 0x00 0x00 0xFF 15 0).timerTick 1
    (t.timer.div, t.timer.tsub, t.iflag) = (0x00, 0, 0x00) := by decide
theorem test_TMR_8 :
    let t := ((timerStart 0b010 0x10 0x00 0x00 0 0).timerTick 6).timerTick 6
    (t.timer.tima, t.timer.tacc, t.timer.tsub) = (0x10, 0, 12) := by decide
theorem test_TMR_10 :
    let t := ((timerStart 0b100 0x00 0x00 0x00 0 5).writeByte 0xFF07 0b110).timerTick 1
    (t.timer.tima, t.timer.tacc) = (0x01, 0) := by decide
theorem test_TMR_11 :
    let t := (timerStart 0b101 0xFD 0x00 0x00 0 0).timerTick 6
    (t.timer.tima, t.iflag) = (0x03, 0x04) := by decide
theorem test_TMR_14 :
    let t := (timerStart 0b000 0x00 0x00 0x20 9 3).writeByte 0xFF04 0x77
    (t.timer.div, t.timer.tsub, t.timer.tacc) = (0x00, 9, 3) := by decide

/-! ### The picture generator (V-PPU) -/

/-- The reset state with the PPU state of the vector. -/
def ppuStart (mode : PpuMode) (ly lyc : Byte) (stat : BitVec 4) (pcnt : Nat) : State :=
  { State.reset with ppu := { State.reset.ppu with mode := mode, ly := ly, lyc := lyc, stat := stat, pcnt := pcnt } }

/-- `mode`, `LY`, `pcnt`, `IF` and the `STAT` read. -/
def lookPpu (t : State) : PpuMode × Byte × Nat × Byte × Byte := (t.ppu.mode, t.ppu.ly, t.ppu.pcnt, t.iflag, t.peek 0xFF41)

theorem test_PPU_1 :
    lookPpu ((ppuStart .oamScan 0 0xFF 0 18).ppuAdvance 1) = (.oamScan, 0, 19, 0x00, 0x82) ∧
    lookPpu ((ppuStart .oamScan 0 0xFF 0 19).ppuAdvance 1) = (.pixelTransfer, 0, 0, 0x00, 0x83) := by decide
theorem test_PPU_5 :
    lookPpu ((ppuStart .vblank 144 0xFF 0 124).ppuAdvance 1) = (.vblank, 144, 125, 0x00, 0x81) ∧
    lookPpu ((ppuStart .vblank 144 0xFF 0 125).ppuAdvance 1) = (.vblank, 145, 0, 0x00, 0x81) := by decide
theorem test_PPU_7 :
    lookPpu ((ppuStart .pixelTransfer 0 0xFF 0b0001 42).ppuAdvance 1) = (.hblank, 0, 0, 0x02, 0x88) := by decide
theorem test_PPU_8 : lookPpu ((ppuStart .hblank 0 0xFF 0b0100 50).ppuAdvance 1) = (.oamScan, 1, 0, 0x02, 0xA2) := by
  decide
theorem test_PPU_9 : lookPpu ((ppuStart .hblank 143 0xFF 0b0010 50).ppuAdvance 1) = (.vblank, 144, 0, 0x03, 0x91) := by
  decide
theorem test_PPU_10 : lookPpu ((ppuStart .vblank 153 0xFF 0b0100 125).ppuAdvance 1) = (.oamScan, 0, 0, 0x02, 0xA2) := by
  decide
theorem test_PPU_11 : lookPpu ((ppuStart .oamScan 0 0 0 19).ppuAdvance 1) = (.pixelTransfer, 0, 0, 0x02, 0x87) := by
  decide
theorem test_PPU_13 : lookPpu ((ppuStart .oamScan 0 0xFF 0 18).ppuAdvance 6) = (.pixelTransfer, 0, 0, 0x00, 0x83) := by
  decide
theorem test_PPU_14 : (ppuStart .oamScan 0 0xFF 0 19).ppuAdvance 0 = ppuStart .oamScan 0 0xFF 0 19 := by decide
theorem test_PPU_16 :
    let t := (ppuStart .hblank 5 5 0 0).writeByte 0xFF41 0xFF
    (t.ppu.stat, t.peek 0xFF41) = (0b1111, 0xFC) := by decide
theorem test_PPU_17 : ((ppuStart .hblank 77 0xFF 0 0).writeByte 0xFF44 0x00).ppu.ly = 77 := by decide

/-! ### The scanline render (V-REN) -/

/-- The reset state with bytes placed in memory. -/
def withBytes (s : State) (l : List (Word × List Byte)) : State := l.foldl (fun s p => s.placeBytes p.1 p.2) s

/-- The tiles 1 to 3 of the vectors and their palettes. -/
def renStart (lcdc : Byte) : State :=
  { withBytes State.reset
      [(0x8010, (List.replicate 8 [0xFF, 0x00]).flatten), (0x8020, (List.replicate 8 [0x00, 0xFF]).flatten), (0x8030, [0xF0, 0xCC])]
    with ppu := { State.reset.ppu with lcdc := lcdc, bgp := 0xE4, obp0 := 0xE4, obp1 := 0xE4 } }

/-- The first cells of line 0 after its render. -/
def lookRow (s : State) (n : Nat) : List Shade := ((s.renderLine 0).ppu.pix.row 0).take n

theorem test_REN_1 :
    lookRow (withBytes (renStart 0x82) [(0xFE00, [0x10, 0x0C, 0x01, 0x00, 0x10, 0x08, 0x02, 0x10])]) 14 =
      [2, 2, 2, 2, 2, 2, 2, 2, 1, 1, 1, 1, 0, 0] := by decide
theorem test_REN_2 :
    lookRow (withBytes (renStart 0x82) [(0xFE00, [0x10, 0x08, 0x01, 0x00, 0x10, 0x08, 0x02, 0x00])]) 10 =
      [1, 1, 1, 1, 1, 1, 1, 1, 0, 0] := by decide
theorem test_REN_3 :
    lookRow ((withBytes (renStart 0x93) [(0x9800, [0x03, 0x01]), (0xFE00, [0x10, 0x08, 0x02, 0x80])]
      |>.writeByte 0xFF43 2).writeByte 0xFF48 0xF4) 16 = [1, 1, 2, 2, 3, 3, 1, 1, 1, 1, 1, 1, 1, 1, 0, 0] := by decide
theorem test_REN_4 :
    lookRow ((withBytes (renStart 0x93) [(0x9800, [0x03])]).writeByte 0xFF47 0x1B) 9 = [0, 0, 2, 2, 1, 1, 3, 3, 3] := by
  decide
theorem test_REN_5 :
    lookRow (((withBytes (renStart 0xF1) [(0x9800, [0x01, 0x01]), (0x9C00, [0x02])]).writeByte 0xFF4B 11).writeByte 0xFF4A 0)
      13 = [1, 1, 1, 1, 2, 2, 2, 2, 2, 2, 2, 2, 0] := by decide

/-! ### Interrupts and whole steps (V-INT, program P5) -/

/-- The start state of the vectors: `LYC` = 0xFF, the interrupt latches and the bytes at 0xC000. -/
def intStart (ime : Bool) (ie iflag : Byte) (bytes : List Byte) : State :=
  { (start bytes).writeByte 0xFF45 0xFF with ime := ime, ie := ie, iflag := iflag }

/-- What the vectors list. -/
structure IntView where
  pc : Word
  sp : Word
  ime : Bool
  iflag : Byte
  halted : Bool
  cost : Nat
  a : Byte
  deriving DecidableEq, Repr

/-- `PC`, `SP`, `IME`, `IF`, `halted`, the cost and `A`. -/
def lookInt (t : State) : IntView := ⟨t.regs.pc, t.regs.sp, t.ime, t.iflag, t.halted, t.cost, t.regs.a⟩

theorem test_INT_1 :
    (steps (intStart true 0x1F 0x1F [0x3C]) fun t => (lookInt t, t.peek 0xCFFE, t.peek 0xCFFF)) =
      some (⟨0x0040, 0xCFFE, false, 0x1E, false, 5, 0x00⟩, 0x00, 0xC0) := by decide
theorem test_INT_2 :
    steps (intStart true 0x1E 0x1F [0x3C]) lookInt = some ⟨0x0048, 0xCFFE, false, 0x1D, false, 5, 0x00⟩ := by decide
theorem test_INT_3 :
    steps (intStart true 0x14 0x14 [0x3C]) lookInt = some ⟨0x0050, 0xCFFE, false, 0x10, false, 5, 0x00⟩ := by decide
theorem test_INT_4 :
    steps (intStart true 0x18 0x18 [0x3C]) lookInt = some ⟨0x0058, 0xCFFE, false, 0x10, false, 5, 0x00⟩ := by decide
theorem test_INT_5 :
    steps (intStart true 0x10 0x10 [0x3C]) lookInt = some ⟨0x0060, 0xCFFE, false, 0x00, false, 5, 0x00⟩ := by decide
theorem test_INT_6 :
    steps (intStart false 0x1F 0x1F [0x3C]) lookInt = some ⟨0xC001, 0xD000, false, 0x1F, false, 1, 0x01⟩ := by decide
theorem test_INT_8 :
    steps (intStart true 0xE0 0xE0 [0x3C]) lookInt = some ⟨0xC001, 0xD000, true, 0xE0, false, 1, 0x01⟩ := by decide
theorem test_INT_10_idle :
    steps ((intStart false 0x04 0x00 [0x3C]).setHalted true) lookInt = some ⟨0xC000, 0xD000, false, 0x00, true, 1, 0x00⟩ := by
  decide
theorem test_INT_10_wake :
    steps ((intStart false 0x04 0x04 [0x3C]).setHalted true) lookInt = some ⟨0xC001, 0xD000, false, 0x04, false, 1, 0x01⟩ := by
  decide
theorem test_INT_11 :
    steps ((intStart true 0x04 0x04 [0x3C]).setHalted true) lookInt = some ⟨0x0050, 0xCFFE, false, 0x00, false, 5, 0x00⟩ := by
  decide
theorem test_INT_14 :
    (steps ((intStart true 0x01 0x01 [0x3C]).setSp 0x0001) fun t => (lookInt t, t.ie)) =
      some (⟨0x0040, 0xFFFF, false, 0x00, false, 5, 0x00⟩, 0x00) := by decide
theorem test_INT_15 :
    steps ((intStart true 0x01 0x03 [0x3C]).setSp 0xFF11) lookInt = some ⟨0x0040, 0xFF0F, false, 0x00, false, 5, 0x00⟩ := by
  decide
theorem test_INT_17 :
    (steps { intStart true 0x04 0x04 [0x00] with timer := (timerStart 0b101 0xFF 0xFB 0x00 0 0).timer } fun t =>
      (lookInt t, t.timer.tima, t.timer.div, t.timer.tsub, t.ppu.pcnt)) =
      some (⟨0x0050, 0xCFFE, false, 0x04, false, 5, 0x00⟩, 0xFF, 0x00, 5, 5) := by decide
/-- Program P5, step 6: a whole step at an undefined opcode advances no device. -/
theorem test_P5_step_6 :
    (steps (intStart false 0x00 0x00 [0xED]) fun t => (t.regs.pc, t.cost, t.timer, t.ppu, t.diags.length)) =
      some (0xC001, 0, State.reset.timer, { State.reset.ppu with lyc := 0xFF }, 1) := by decide

/-! ### The bus and the buttons (V-BUS, V-JOY) -/

theorem test_BUS_3_and_4 :
    let t := ((start []).writeWord 0xC0FF 0xBEEF).writeWord 0xDFFF 0x1234
    (t.peek 0xC0FF, t.peek 0xC100, (t.readWord 0xC0FF).1, t.peek 0xDFFF, (t.readWord 0xDFFF).1) =
      (0xEF, 0xBE, 0xBEEF, 0x34, 0xFF34) := by decide
theorem test_BUS_5 :
    let t := ((start []).writeByte 0xFFFE 0x11).writeByte 0xFFFF 0x22
    ((t.readWord 0xFFFE).1, (t.readWord 0xFFFF).1) = (0x2211, 0x0022) := by decide
set_option maxRecDepth 4000 in
theorem test_BUS_6 :
    let t := (((start []).writeByte 0xC100 0x01).writeByte 0xC19F 0xDE).writeByte 0xFF46 0xC1
    (t.peek 0xFE00, t.peek 0xFE9F, t.peek 0xC100, t.peek 0xFEA0) = (0x01, 0xDE, 0x01, 0xFF) := by decide
set_option maxRecDepth 4000 in
theorem test_BUS_8 :
    let t := (start []).writeByte 0xFF46 0xFF
    (t.peek 0xFE00, t.peek 0xFE04, t.peek 0xFE07, t.peek 0xFE0F, t.peek 0xFE41, t.peek 0xFE46, t.peek 0xFE80) =
      (0xCF, 0x00, 0xF8, 0x00, 0x86, 0xFF, 0x00) := by decide
/-- `ROM` and `BOOT_ROM` of BUS-9 at the addresses that are read. -/
def busStart : State :=
  State.resetOn { cells := [(0x0000, 0x40), (0x00FF, 0x7F), (0x0100, 0x40), (0x0101, 0x41)] }
    { cells := [(0x00, 0xB0), (0xFF, 0xBF)] }
theorem test_BUS_9 :
    (busStart.peek 0x0000, busStart.peek 0x00FF, (busStart.readByte 0x0101).1, (busStart.readByte 0x0101).2.boot) =
      (0xB0, 0xBF, 0x41, true) ∧
    (let r := busStart.readByte 0x0100
     (r.1, r.2.boot, r.2.peek 0x0000, r.2.peek 0x00FF) = (0x40, false, 0x40, 0x7F)) := by decide
theorem test_BUS_10 :
    (busStart.writeByte 0x0100 0).boot = true ∧
    (busStart.readWord 0x00FF).1 = 0x40BF ∧ (busStart.readWord 0x00FF).2.boot = false := by decide
theorem test_JOY_1 :
    State.reset.peek 0xFF00 = 0xCF ∧ (State.reset.updateButtons 0x81).iflag = 0x10 ∧
    (State.reset.updateButtons 0x81).peek 0xFF00 = 0xC6 := by decide
theorem test_JOY_2 :
    (((State.reset.updateButtons 0x81).setIf 0).updateButtons 0x01).iflag = 0x00 := by decide
theorem test_JOY_3 :
    let s : State := { State.reset with joypad := { psel := 0b00, buttons := 0x25 } }
    ((s.writeByte 0xFF00 0x00).peek 0xFF00, (s.writeByte 0xFF00 0x10).peek 0xFF00, (s.writeByte 0xFF00 0x20).peek 0xFF00,
      (s.writeByte 0xFF00 0xFF).peek 0xFF00) = (0xC8, 0xDD, 0xEA, 0xFF) := by decide

/-! ### The interface of the host: a table word is decoded, placed and run -/

/-- `LD A,0x45` and `ADD A,0x38`, the words of program P5, and `RST 0x38`. -/
theorem test_decodeTableWord :
    decodeTableWord 16 0x453E = some (.ldRN .a 0x45) ∧ decodeTableWord 16 0x38C6 = some (.addAN 0x38) ∧
    decodeTableWord 8 0xFF = some (.rst 7) ∧ decodeTableWord 24 0x0150C3 = some (.jpNn 0x0150) := by decide
theorem test_withFetchWord :
    (steps (State.reset.withFetchWord 16 0x453E) fun t => (t.regs.a, t.regs.pc, t.cost)) = some (0x45, 0x0002, 2) := by
  decide

/-! ### Witnesses: for each statement with hypotheses, a state and operands that meet all of them, and each clause at the edge of
its range -/

/-- A machine in work RAM with its stack in work RAM, the zero flag clear and the carry flag set. -/
def sample (bytes : List Byte) : State := (start bytes).setFlags (Flags.ofByte 0x10)

theorem witness_ResetMeetsInvariant :
    busStart.rom.wf ∧ (∀ c ∈ busStart.rom.cells, c.1 < 0x8000) ∧ busStart.bootRom.wf ∧
    (∀ c ∈ busStart.bootRom.cells, c.1 < 0x100) ∧ busStart.rom.cells ≠ [] ∧ busStart.bootRom.cells ≠ [] := by decide

/-- For `StepKeepsInvariant` and `ImagesNeverChange`: a state of the invariant whose step runs `INC A`. -/
theorem witness_StepKeepsInvariant :
    (sample [0x3C]).Inv ∧ (sample [0x3C]).boot = false ∧ steps (sample [0x3C]) (·.regs.a) = some 0x01 := by decide

/-- The same with an interrupt, and while halted. -/
theorem witness_StepKeepsInvariant_interrupt :
    (intStart true 0x01 0x01 [0x3C]).Inv ∧ steps (intStart true 0x01 0x01 [0x3C]) (·.regs.pc) = some 0x0040 := by
  decide

theorem witness_StepKeepsInvariant_halted :
    ((sample []).setHalted true).Inv ∧ steps ((sample []).setHalted true) (·.cost) = some 1 := by decide

theorem witness_PlainStorageRoundTrip :
    (sample [0x3C]).ram.wf ∧
    ([0x8000, 0x9FFF, 0xA000, 0xBFFF, 0xC000, 0xDFFF, 0xFE00, 0xFE9F, 0xFF80, 0xFFFE].all fun a => decide (PlainStorage a)) ∧
    ([0x7FFF, 0xE000, 0xFDFF, 0xFEA0, 0xFF7F, 0xFFFF].all fun a => decide (¬PlainStorage a)) := by decide

/-- Every end of every range, with what BUS-2 reads there. -/
theorem witness_UnmappedAddresses :
    ([0xE000, 0xFDFF, 0xFEA0, 0xFEFF, 0xFF01, 0xFF03, 0xFF08, 0xFF0E, 0xFF10, 0xFF3F, 0xFF4C, 0xFF7F] : List Word).all fun a =>
      decide (((0xE000 ≤ a.toNat ∧ a.toNat < 0xFE00) ∨ (0xFEA0 ≤ a.toNat ∧ a.toNat < 0xFF00) ∨
       (0xFF01 ≤ a.toNat ∧ a.toNat ≤ 0xFF03) ∨ (0xFF08 ≤ a.toNat ∧ a.toNat ≤ 0xFF0E) ∨
       (0xFF10 ≤ a.toNat ∧ a.toNat ≤ 0xFF3F) ∨ (0xFF4C ≤ a.toNat ∧ a.toNat ≤ 0xFF7F)) ∧
      (State.reset.writeByte a 0x5A).peek a = 0xFF) := by decide

/-- The last overlaid address and the first above it, under the overlay and without it. -/
theorem witness_BootOverlay_and_RomWindow :
    busStart.boot = true ∧ (0x00FF : Word).toNat < 0x0100 ∧ (busStart.readByte 0x00FF).1 = 0xBF ∧ (0x0101 : Word) ≠ 0x0100 ∧
    (0x0100 : Word).toNat ≤ 0x0100 ∧ (State.setHalted { busStart with boot := false } false).peek 0x00FF = 0x7F ∧
    (0x7FFF : Word).toNat < 0x8000 ∧ 0x0100 ≤ (0x7FFF : Word).toNat ∧ busStart.peek 0x7FFF = 0x00 := by decide

/-- `RomWindow`: images that give no machine; `witness_RomWindow_load` is a pair that does. -/
theorem witness_RomWindow_none : State.load [0x00] [0x00] = none := by decide

theorem witness_RomWindow_load :
    ∃ rom bootRom : List Byte, ¬(rom.length < 0x8000 ∨ bootRom.length ≠ 256) ∧ ∃ s, State.load rom bootRom = some s := by
  have good : ∀ rom bootRom : List Byte, rom.length = 0x8000 → bootRom.length = 256 →
      ¬(rom.length < 0x8000 ∨ bootRom.length ≠ 256) ∧ ∃ s, State.load rom bootRom = some s := by
    intro rom bootRom h h'
    refine ⟨by omega, State.resetOn (imageOf (rom.take Config.romMinLength)) (imageOf bootRom), ?_⟩
    rw [State.load, if_pos ⟨Nat.le_of_eq h.symm, h'⟩]
  exact ⟨_, _, good (List.replicate 0x8000 0x01) (List.replicate 256 0x02) List.length_replicate List.length_replicate⟩

/-- `BulkTransfer`, with source page 0x01 under the overlay and without it. -/
theorem witness_BulkTransfer :
    busStart.ram.wf ∧ busStart.boot = true ∧ OamAddr 0xFE00 ∧ OamAddr 0xFE9F ∧ ¬OamAddr 0xFDFF ∧ ¬OamAddr 0xFEA0 ∧
    ¬((0xC1 : Byte) = 0x01 ∧ busStart.boot = true ∧ (0x00FF : Word).toNat < 0x100) := by decide

theorem witness_WordAccesses :
    (sample [0x3C]).MemInv ∧ PlainStorage 0xC0FF ∧ PlainStorage (0xC0FF + 1) ∧ PlainStorage 0xDFFE ∧ PlainStorage (0xDFFE + 1) := by
  decide

theorem witness_DecodeAfterEncode :
    (Instr.setBHl 7).wellFormed = true ∧ encode (.setBHl 7) = [0b11001011, 0b11111110] ∧ (Instr.ldRrNn .sp 0xFFFE).wellFormed = true ∧
    encode (.ldRrNn .sp 0xFFFE) = [0b00110001, 0xFE, 0xFF] := by decide

theorem witness_EncodeAfterDecode :
    decode [0xC3, 0x50, 0x01, 0x99] = .ok (.jpNn 0x0150, [0x99]) ∧ decode [0x00] = .ok (.nop, []) := by decide

/-- For `StepRunsDecodedInstruction` and `SingleStepAdvancesPc`: an instruction of each length, the last where the address wraps. -/
theorem witness_StepRunsDecodedInstruction :
    (∀ p ∈ ([([0x3C], .incR .a), ([0x3E, 0x45], .ldRN .a 0x45), ([0x31, 0xFE, 0xFF], .ldRrNn .sp 0xFFFE)] : List (List Byte × Instr)),
      let s := sample p.1
      s.halted = false ∧ s.accepted = none ∧ p.2.transfersControl = false ∧
      (decode [s.peek s.regs.pc, s.peek (s.regs.pc + 1), s.peek (s.regs.pc + 2)]).map (·.1) = .ok p.2) ∧
    (let s := ((sample []).writeByte 0xFFFF 0x06).setPc 0xFFFF
     s.accepted = none ∧ decode [s.peek s.regs.pc, s.peek (s.regs.pc + 1), s.peek (s.regs.pc + 2)] = .ok (.ldRN .b 0x00, [0x00])) := by
  decide

/-- `InterruptEntry`: the lowest and the highest source, with a stack in plain storage and one that wraps. -/
theorem witness_InterruptEntry :
    let s := intStart true 0x1F 0x1F [0x3C]
    let u := (intStart true 0x10 0x1F [0x3C]).setSp 0x0001
    s.ime = true ∧ (s.iflag &&& s.ie).getLsbD Interrupt.vblank.index = true ∧
    (∀ j ∈ [Interrupt.vblank, .lcdStatus, .timer, .serial, .joypad], j.index < Interrupt.vblank.index →
      (s.iflag &&& s.ie).getLsbD j.index = false) ∧
    s.MemInv ∧ PlainStorage (s.regs.sp - 2) ∧ PlainStorage (s.regs.sp - 1) ∧ s.regs.sp - 2 ≠ 0xFF0F ∧ s.regs.sp - 1 ≠ 0xFF0F ∧
    u.ime = true ∧ (u.iflag &&& u.ie).getLsbD Interrupt.joypad.index = true ∧
    (∀ j ∈ [Interrupt.vblank, .lcdStatus, .timer, .serial, .joypad], j.index < Interrupt.joypad.index →
      (u.iflag &&& u.ie).getLsbD j.index = false) := by decide

/-- `HaltedStep`: a source pending and one enabled, but not the same one. -/
theorem witness_HaltedStep :
    let s := (intStart true 0x04 0xE1 [0x3C]).setHalted true
    s.halted = true ∧ s.iflag &&& s.ie &&& 0x1F = 0 := by decide

/-- `WakeUp`, with `IME` set and clear. -/
theorem witness_WakeUp :
    ∀ ime ∈ [true, false],
      let s := (intStart ime 0x10 0x10 [0x3C]).setHalted true
      s.halted = true ∧ s.iflag &&& s.ie &&& 0x1F ≠ 0 ∧ s.ime = ime := by decide

/-- `CostsOfTheTable`: both entries of a conditional row and a row without a condition. -/
theorem witness_CostsOfTheTable :
    (∃ t, exec (.jrCcE .c 0x10) (sample []) = .next t ∧ t.cost = 3) ∧ (Instr.jrCcE .c 0x10).condition (sample []).flags = true ∧
    (∃ t, exec (.jrCcE .z 0x10) (sample []) = .next t ∧ t.cost = 2) ∧ (Instr.jrCcE .z 0x10).condition (sample []).flags = false ∧
    (∃ t, exec (.swapR .a) (sample []) = .next t ∧ t.cost = 2) :=
  ⟨⟨_, rfl, rfl⟩, rfl, ⟨_, rfl, rfl⟩, rfl, ⟨_, rfl, rfl⟩⟩

/-- `FlagsWrittenOnlyAsListed`, `LatchesWrittenOnlyByTheirInstructions`, `HiddenStateOutOfReach`. -/
theorem witness_what_no_instruction_does :
    (∃ t, exec (.setBHl 3) (sample []) = .next t) ∧ (Instr.setBHl 3).writesFlags = false ∧ (Instr.pop .bc).writesFlags = false ∧
    (∃ t, exec (.pop .bc) (sample []) = .next t) ∧ Instr.pop .bc ≠ .di ∧ Instr.pop .bc ≠ .ei ∧ Instr.pop .bc ≠ .reti ∧
    Instr.pop .bc ≠ .halt :=
  ⟨⟨_, rfl⟩, rfl, rfl, ⟨_, rfl⟩, by decide, by decide, by decide, by decide⟩

/-- The pairs that are not `SP` (`LoadPair`, `IncrementAndDecrementPair`) and the condition both ways (`JumpInstructions`,
`CallInstructions`, `ReturnInstructions`). -/
theorem witness_pairs_and_conditions :
    Pair.bc ≠ .sp ∧ Pair.hl ≠ .sp ∧ (sample []).flags.z = false ∧ (sample []).flags.c = true ∧
    ((sample []).setFlags (Flags.ofByte 0x80)).flags.z = true ∧ ((sample []).setFlags (Flags.ofByte 0x80)).flags.c = false := by
  decide

/-- What `Stores` asks of a store to plain storage, and an address that a bulk transfer leaves alone. -/
theorem witness_Stores :
    (sample []).ram.wf ∧ PlainStorage ((sample []).regs.sp - 2) ∧ ¬storeTouches false 0xC100 0x5A 0xC101 ∧
    storeTouches false 0xFF45 0x5A 0xFF41 := by decide

/-- The edges of what a bulk transfer touches. -/
theorem witness_Stores_bulk_transfer :
    storeTouches false 0xFF46 0x5A 0xFE9F ∧ ¬storeTouches false 0xFF46 0x5A 0xFEA0 ∧ storeTouches true 0xFF46 0x01 0x00FF ∧
    ¬storeTouches true 0xFF46 0x01 0x0100 := by decide

/-- 99 + 1 and 0 - 99 in packed BCD. -/
theorem witness_DecimalArithmetic :
    (99 : Nat) < 100 ∧ (((sample []).setReg .a 0x99).reg .a).toNat = 16 * (99 / 10) + 99 % 10 ∧
    ((sample []).reg .a).toNat = 16 * (0 / 10) + 0 % 10 ∧
    ((exec .daa ((sample []).setReg .a 0x9A)) matches .next _) = true := by decide

theorem witness_UndefinedOpcodes :
    decode (0xFD :: [0x00]) = .ok (.undefFD, [0x00]) ∧ decode (0xF5 :: []) = .ok (.push .af, []) := by decide

/-- `TimerCounts`: disabled, and enabled with each of the four thresholds at the last unit before the overflow. -/
theorem witness_TimerCounts :
    (timerStart 0b010 0x10 0x00 0x00 15 63).TimerInv ∧ (0b010 : BitVec 3).getLsbD 2 = false ∧
    (∀ p ∈ ([(0b100, 64), (0b101, 1), (0b110, 4), (0b111, 16)] : List (BitVec 3 × Nat)),
      let s := timerStart p.1 0xFE 0x05 0x00 0 0
      s.TimerInv ∧ s.timer.tac.getLsbD 2 = true ∧ s.timer.tacc = 0 ∧
      (match (s.timer.tac.setWidth 2).toNat with | 0 => 64 | 1 => 1 | 2 => 4 | _ => 16) = p.2 ∧
      2 * p.2 - 1 < (256 - s.timer.tima.toNat) * p.2) := by decide

/-- `TimerCounts`, the law of one unit: `tacc` one below, at and above what reaches the threshold 4 (the last as in TMR-10), with
`TIMA` at 0xFF and below it, and the sub-counter at 15 and below it. -/
theorem witness_TimerCounts_unit :
    (∀ tacc ∈ [2, 3, 5], (timerStart 0b110 0xFF 0x05 0x00 14 tacc).TimerInv) ∧ 2 + 1 < 4 ∧ 3 + 1 ≥ 4 ∧ 5 + 1 ≥ 4 ∧
    (timerStart 0b110 0xFE 0x05 0x00 15 63).TimerInv ∧ (0b110 : BitVec 3).getLsbD 2 = true := by decide

/-- `PictureTransitions`: every mode, on the first and the last line it can be on, below its threshold and at it. -/
theorem witness_PictureTransitions :
    ∀ p ∈ ([(.oamScan, 0, 20), (.oamScan, 143, 20), (.pixelTransfer, 0, 43), (.pixelTransfer, 143, 43), (.hblank, 0, 51),
        (.hblank, 143, 51), (.vblank, 144, 126), (.vblank, 153, 126)] : List (PpuMode × Byte × Nat)),
      let s := ppuStart p.1 p.2.1 0 0b1111 (p.2.2 - 2)
      s.PpuInv ∧ s.ppu.pcnt + 1 < p.2.2 ∧ s.ppu.pcnt + 2 ≥ p.2.2 := by decide

theorem witness_PictureFrame :
    State.reset.ppu.mode = .oamScan ∧ State.reset.ppu.ly = 0 ∧ State.reset.ppu.pcnt = 0 := by decide

/-- For `RenderLine` and `SpritePixels`: the state of REN-1, where sprites 0 and 1 are drawn and both cover column 4. -/
def renWitness : State := withBytes (renStart 0x82) [(0xFE00, [0x10, 0x0C, 0x01, 0x00, 0x10, 0x08, 0x02, 0x10])]

/-- Eleven entries that cover line 0, in descending `X`: the last of the first ten is drawn, the eleventh is not (R361). -/
def renEleven : State :=
  withBytes (renStart 0x82)
    [(0xFE00, ((List.range 11).map fun k => [0x10, BitVec.ofNat 8 (120 - 10 * k), 0x01, 0x00]).flatten)]

set_option maxRecDepth 4000 in
theorem test_ten_sprites_a_line :
    (renEleven.spritesOf 0).map (·.slot) = [0, 1, 2, 3, 4, 5, 6, 7, 8, 9] := by decide

set_option maxRecDepth 4000 in
theorem witness_RenderLine :
    renWitness.ppu.pix.wf ∧ (renStart 0x91).ppu.lcdc.getLsbD 1 = false ∧ renWitness.Selected 0 0 ∧ renWitness.Selected 0 1 ∧
    ¬renWitness.Selected 0 2 ∧ ¬renWitness.Selected 8 0 := by decide

/-- The edge of the first ten, and the two edges of what an entry covers. -/
theorem witness_RenderLine_selected :
    renEleven.Selected 0 9 ∧ renEleven.Covers 0 10 ∧ ¬renEleven.Selected 0 10 ∧ renEleven.Selected 7 9 := by decide

/-- Entry `k` of that state covers column `x` of line 0 with a visible colour, as `SpritePixels` says it. -/
abbrev RenVisible (k x : Nat) : Prop :=
  let o := renWitness.sprite k
  o.x ≤ (x : Int) ∧ (x : Int) < o.x + 8 ∧ renWitness.spriteIndex o 0 ((x : Int) - o.x).toNat ≠ 0 ∧
  (o.attr.getLsbD 7 = false ∨ renWitness.bgIndex 0 x = 0)

set_option maxRecDepth 4000 in
/-- Column 4, where entry 1 is on top of entry 0 (REN-1), and column 12, which no entry covers. -/
theorem witness_SpritePixels :
    renWitness.ppu.lcdc.getLsbD 1 = true ∧ renWitness.Selected 0 1 ∧ RenVisible 1 4 ∧ RenVisible 0 4 ∧
    (∀ j, renWitness.Selected 0 j → RenVisible j 4 →
      j = 1 ∨ (renWitness.sprite 1).x < (renWitness.sprite j).x ∨ ((renWitness.sprite 1).x = (renWitness.sprite j).x ∧ 1 < j)) ∧
    ∀ j, renWitness.Selected 0 j → ¬RenVisible j 12 := by
  have top : ∀ j < 40, renWitness.Selected 0 j → RenVisible j 4 →
      j = 1 ∨ (renWitness.sprite 1).x < (renWitness.sprite j).x ∨ ((renWitness.sprite 1).x = (renWitness.sprite j).x ∧ 1 < j) := by
    decide
  have none : ∀ j < 40, renWitness.Selected 0 j → ¬RenVisible j 12 := by decide
  exact ⟨by decide, by decide, by decide, by decide, fun j h => top j h.1 h, fun j h => none j h.1 h⟩

end Sys2Proof.Tests
end

section
/-! PROOFS. The read formats of the I/O registers after a write (spec 10_state.md R37 to R55). -/

namespace Sys2Proof.Machine

variable (s : State) (v : Byte)

/-! ### One register of the window -/

/-- The registers that keep all eight bits of the byte written and return them (R39, R40, R42, R43, R45, R46, R48, R50 to R54). -/
def IoReg.keepsByte (r : IoReg) : Bool :=
  match r with
  | .tima | .tma | .iflag | .lcdc | .scy | .scx | .lyc | .bgp | .obp0 | .obp1 | .wy | .wx => true
  | .p1 | .div | .tac | .stat | .ly | .dma | .unmapped => false

theorem readIo_writeIo_of_keepsByte {r : IoReg} (h : r.keepsByte) : (s.writeIo r v).readIo r = v := by
  cases r
  case tima | tma | iflag | lcdc | scy | scx | lyc | bgp | obp0 | obp1 | wy | wx => rfl
  case p1 | div | tac | stat | ly | dma | unmapped => exact absurd h Bool.false_ne_true

/-- Writing and reading one address of the window is writing and reading the register there (R82). -/
theorem peek_writeByte_io {a : Word} (ha : 0xFF00 ≤ a.toNat ∧ a.toNat < 0xFF80) :
    (s.writeByte a v).peek a = (s.writeIo (ioRegAt a) v).readIo (ioRegAt a) := by
  rw [peek_io _ ha, writeByte_io _ ha]

theorem peek_writeByte_of_keepsByte {a : Word} (h : (0xFF00 ≤ a.toNat ∧ a.toNat < 0xFF80) ∧ (ioRegAt a).keepsByte) :
    (s.writeByte a v).peek a = v := by
  rw [peek_writeByte_io s v h.1, readIo_writeIo_of_keepsByte s v h.2]

/-! ### The fields of `P1`, `TAC` and `STAT` -/

/-- A field cut out of a byte and put back at its place is the byte under the field's mask. -/
theorem extractLsb'_shiftLeft (k n : Nat) :
    (v.extractLsb' k n).setWidth 8 <<< k = v &&& (BitVec.allOnes n).setWidth 8 <<< k := by
  ext i hi
  by_cases hk : i < k
  · simp [hk]
  · simp [hk, show k + (i - k) = i by omega, BitVec.getLsbD_eq_getElem hi, Bool.and_comm]

theorem b2n_shiftLeft_two (p : Prop) [Decidable p] : b2n (decide p) <<< 2 = if p then (0x04 : Byte) else 0x00 := by
  by_cases h : p <;> simp [h, b2n]

/-- The key nibble after a select of the groups by bits 4 and 5 of `v`, 0 = selected (R37). -/
theorem Joypad.keys_select (j : Joypad) :
    ({ j with psel := v.extractLsb' 4 2 } : Joypad).keys =
      (0x0F : Byte) &&& ~~~((if v.getLsbD 4 = false then j.buttons &&& 0x0F else 0x00) |||
        (if v.getLsbD 5 = false then j.buttons >>> 4 else 0x00)) := by
  have h0 : (v.extractLsb' 4 2).getLsbD 0 = v.getLsbD 4 := BitVec.getLsbD_extractLsb' ..
  have h1 : (v.extractLsb' 4 2).getLsbD 1 = v.getLsbD 5 := BitVec.getLsbD_extractLsb' ..
  rw [Joypad.keys, h0, h1]
  cases v.getLsbD 4 <;> cases v.getLsbD 5 <;> rfl

theorem readIo_writeIo_p1 :
    (s.writeIo .p1 v).readIo .p1 =
      (0xC0 : Byte) ||| (v &&& (0x30 : Byte)) |||
        ((0x0F : Byte) &&& ~~~((if v.getLsbD 4 = false then s.joypad.buttons &&& 0x0F else 0x00) |||
          (if v.getLsbD 5 = false then s.joypad.buttons >>> 4 else 0x00))) := by
  rw [← Joypad.keys_select, show (0x30 : Byte) = (BitVec.allOnes 2).setWidth 8 <<< 4 from rfl, ← extractLsb'_shiftLeft]
  rfl

theorem readIo_writeIo_tac : (s.writeIo .tac v).readIo .tac = (0xF8 : Byte) ||| (v &&& (0x07 : Byte)) := by
  rw [show (0x07 : Byte) = (BitVec.allOnes 3).setWidth 8 <<< 0 from rfl, ← extractLsb'_shiftLeft, BitVec.shiftLeft_zero]
  rfl

theorem readIo_writeIo_stat :
    (s.writeIo .stat v).readIo .stat =
      (0x80 : Byte) ||| (v &&& (0x78 : Byte)) ||| (if s.ppu.ly = s.ppu.lyc then (0x04 : Byte) else 0x00) ||| s.ppu.mode.code := by
  rw [show (0x78 : Byte) = (BitVec.allOnes 4).setWidth 8 <<< 3 from rfl, ← extractLsb'_shiftLeft, ← b2n_shiftLeft_two]
  rfl

/-! ### The obligation -/

/-- Settles O13: each address is the register there, and each register reads back by its own format. -/
theorem registerFormats : Obligations.RegisterFormats := by
  intro s v
  have kept {a : Word} := peek_writeByte_of_keepsByte s v (a := a)
  have format (a : Word) := peek_writeByte_io s v (a := a)
  refine ⟨?p1, ?div, kept (by decide), kept (by decide), ?tac, kept (by decide), rfl, kept (by decide), ?stat,
    kept (by decide), kept (by decide), ?ly, ⟨kept (by decide), writeByte_iflag_ne s (by decide) v⟩, ?dma,
    kept (by decide), kept (by decide), kept (by decide), kept (by decide), kept (by decide)⟩
  case p1 => exact (format 0xFF00 (by decide)).trans (readIo_writeIo_p1 s v)
  case div => exact ⟨format 0xFF04 (by decide), congrArg State.timer (writeByte_io s (a := 0xFF04) (by decide) v)⟩
  case tac => exact ⟨(format 0xFF07 (by decide)).trans (readIo_writeIo_tac s v), writeByte_tacc s _ v⟩
  case stat =>
    refine ((format 0xFF41 (by decide)).trans (readIo_writeIo_stat s v)).trans ?_
    cases s.ppu.mode <;> rfl
  case ly => exact ⟨writeByte_io s (by decide) v, peek_io s (by decide)⟩
  case dma => exact peek_io s (by decide)

end Sys2Proof.Machine
end

section
/-! PROOFS. The memory: plain storage, the ROM window and the images it is loaded from, and word accesses (spec 20_memory.md R75 to
R78, R80, R83 to R85, R97). -/

namespace Sys2Proof.Machine

/-! ### Plain storage -/

theorem ne_dma_of_plainStorage {a : Word} (ha : PlainStorage a ∨ a = 0xFFFF) : a ≠ 0xFF46 := by
  rintro rfl; revert ha; decide

theorem ne_lyc_of_plainStorage {a : Word} (ha : PlainStorage a ∨ a = 0xFFFF) : a ≠ 0xFF45 := by
  rintro rfl; revert ha; decide

/-- A store to plain storage or `IE` can change the reading of its own address only: a store reaches further at `LYC` and at the
bulk transfer alone (R89). -/
theorem not_storeTouches_of_plainStorage {a b : Word} (ha : PlainStorage a ∨ a = 0xFFFF) (hb : b ≠ a) (boot : Bool) (v : Byte) :
    ¬storeTouches boot a v b := by
  rintro (h | ⟨h, -⟩ | ⟨h, -⟩ | ⟨h, -⟩)
  · exact hb h
  · exact ne_dma_of_plainStorage ha h
  · exact ne_dma_of_plainStorage ha h
  · exact ne_lyc_of_plainStorage ha h

theorem peek_writeByte_plainStorage_ne (s : State) {a b : Word} (ha : PlainStorage a ∨ a = 0xFFFF) (hb : b ≠ a) (v : Byte) :
    (s.writeByte a v).peek b = s.peek b :=
  peek_writeByte s (not_storeTouches_of_plainStorage ha hb s.boot v)

/-- Settles O6: the written cell is read back, and a store there touches no other address. -/
theorem plainStorageRoundTrip : Obligations.PlainStorageRoundTrip := by
  intro s a v
  have ie : s.writeByte 0xFFFF v = { s with ie := v } := writeByte_ie s v
  refine ⟨fun hw ha => peek_writeByte_self s hw ha v, by rw [peek_ie, ie], by rw [ie], peek_ie s, fun ha => ?frame⟩
  case frame =>
    exact ⟨fun b hb => peek_writeByte_plainStorage_ne s ha hb v, writeByte_boot_ne s (ne_dma_of_plainStorage ha) v,
      keepsRegs_writeByte s a v, keepsControl_writeByte s a v, keepsHidden_writeByte s a v⟩

/-! ### The ROM window and the images -/

theorem writeByte_rom_window (s : State) {a : Word} (ha : a.toNat < 0x8000) (v : Byte) : s.writeByte a v = s := by
  by_cases h : a.toNat < 0x0100
  · simp only [State.writeByte, (regionOf_overlay a).2 h]
  · simp only [State.writeByte, (regionOf_rom a).2 ⟨Nat.le_of_not_lt h, ha⟩]

theorem peek_rom_window (s : State) {a : Word} (ha : a.toNat < 0x8000) (h : 0x0100 ≤ a.toNat ∨ s.boot = false) :
    s.peek a = s.rom.read a.toNat := by
  by_cases hlow : a.toNat < 0x0100
  · have hboot : s.boot = false := h.resolve_left (Nat.not_le_of_lt hlow)
    simp only [State.peek, (regionOf_overlay a).2 hlow, hboot, Bool.false_eq_true, if_false]
  · simp only [State.peek, (regionOf_rom a).2 ⟨Nat.le_of_not_lt hlow, ha⟩]

theorem le_of_mem_imageCells {a : Nat} {bytes : List Byte} {c : Host.Cell} (h : c ∈ imageCells a bytes) : a ≤ c.1 := by
  induction bytes generalizing a with
  | nil => exact absurd h List.not_mem_nil
  | cons v rest ih =>
    unfold imageCells at h
    split at h
    · exact Nat.le_of_succ_le (ih h)
    · rcases List.mem_cons.1 h with rfl | h
      · exact Nat.le_refl a
      · exact Nat.le_of_succ_le (ih h)

/-- The cells of an image hold its bytes, and 0x00 past its end. -/
theorem lookup_imageCells (a k : Nat) (bytes : List Byte) :
    lookup Config.unlistedByte (imageCells a bytes) (a + k) = bytes.getD k Config.unlistedByte := by
  induction bytes generalizing a k with
  | nil => rfl
  | cons v rest ih =>
    unfold imageCells
    cases k with
    | zero =>
      have hrest : lookup Config.unlistedByte (imageCells (a + 1) rest) a = Config.unlistedByte :=
        lookup_below fun c hc => le_of_mem_imageCells hc
      split
      · exact hrest.trans (‹v = Config.unlistedByte›).symm
      · exact if_pos rfl
    | succ k =>
      have hrest : lookup Config.unlistedByte (imageCells (a + 1) rest) (a + (k + 1)) = rest.getD k Config.unlistedByte := by
        rw [← ih (a + 1) k, Nat.add_right_comm, Nat.add_assoc]
      split
      · exact hrest
      · exact (if_neg (by omega)).trans hrest

theorem read_imageOf (bytes : List Byte) (k : Nat) : (imageOf bytes).read k = bytes.getD k 0x00 := by
  have h := lookup_imageCells 0 k bytes
  rwa [Nat.zero_add] at h

theorem load_eq_none_iff (rom bootRom : List Byte) :
    State.load rom bootRom = none ↔ rom.length < 0x8000 ∨ bootRom.length ≠ 256 := by
  unfold State.load
  rw [ite_eq_right_iff]
  simp only [reduceCtorEq, imp_false, not_and_or, Nat.not_le]
  rfl

theorem load_eq_some {rom bootRom : List Byte} {s : State} (h : State.load rom bootRom = some s) :
    s = State.resetOn (imageOf (rom.take 0x8000)) (imageOf bootRom) := by
  unfold State.load at h
  split at h
  · exact (Option.some.inj h).symm
  · cases h

/-- Settles O9: the window is the two regions below 0x8000, and the memories of a loaded machine hold the bytes of its images. -/
theorem romWindow : Obligations.RomWindow := by
  refine ⟨fun s a v ha => ⟨peek_rom_window s ha, writeByte_rom_window s ha v⟩, fun rom bootRom =>
    ⟨load_eq_none_iff rom bootRom, fun s hs => ?_⟩⟩
  rw [load_eq_some hs]
  refine ⟨fun k hk => (read_imageOf _ k).trans ?_, fun k _ => read_imageOf bootRom k⟩
  rw [List.getD_eq_getElem?_getD, List.getElem?_take_of_lt hk, ← List.getD_eq_getElem?_getD]

/-! ### Words -/

theorem lo_eq_ofNat (w : Word) : lo w = BitVec.ofNat 8 (w.toNat % 256) := by
  rw [← lo_toNat, BitVec.ofNat_toNat, BitVec.setWidth_eq]

theorem hi_eq_ofNat (w : Word) : hi w = BitVec.ofNat 8 (w.toNat / 256) := by
  rw [← hi_toNat, BitVec.ofNat_toNat, BitVec.setWidth_eq]

theorem peek_writeWord_ne (s : State) {a b : Word} (ha : PlainStorage a) (ha' : PlainStorage (a + 1)) (hb : b ≠ a)
    (hb' : b ≠ a + 1) (w : Word) : (s.writeWord a w).peek b = s.peek b :=
  (peek_writeByte_plainStorage_ne _ (.inl ha') hb' (hi w)).trans (peek_writeByte_plainStorage_ne s (.inl ha) hb (lo w))

/-- Settles O12: a word is its low and its high byte, read and written in turn. -/
theorem wordAccesses : Obligations.WordAccesses := by
  intro s a w
  refine ⟨(readWord_fst_eq s a).trans (word_eq _ _), rfl, ?store, fun hw ha ha' => ?plain⟩
  case store => rw [← lo_eq_ofNat, ← hi_eq_ofNat]; rfl
  case plain =>
    obtain ⟨hlo, hhi⟩ := peek_writeWord s hw ha ha' w
    exact ⟨by rw [hlo, lo_toNat], by rw [hhi, hi_toNat], fun b hb hb' => peek_writeWord_ne s ha ha' hb hb' w⟩

end Sys2Proof.Machine
end

section
/-! PROOFS. The cost table (spec 30_encoding.md R121, R122) and the undefined opcodes (R116; 46_system.md R296). -/

namespace Sys2Proof.Machine

/-! ### The cost of an instruction -/

/-- An extended-page instruction is 0xCB and the byte it was decoded from (R100). -/
theorem encode_decodeExtended : ∀ o2 : Byte, encode (decodeExtended o2) = [0xCB, o2] := by decide

theorem tableCost_prefixCb (o2 : Byte) (taken : Bool) :
    tableCost (.prefixCb o2) taken = tableCost (decodeExtended o2) taken := by
  unfold tableCost
  rw [encode_decodeExtended]
  rfl

theorem condition_decodeExtended (o2 : Byte) (f : Flags) : (decodeExtended o2).condition f = true := by
  fun_cases decodeExtended o2 <;> rfl

/-- The last act of the instruction is to set the cost of its table entry. -/
abbrev EndsAtTableCost (i : Instr) (s : State) : Prop := ∃ u, exec i s = done (tableCost i (i.condition s.flags)) u

/-- An entry is found once the selectors in the opcode byte are known, and the condition says which half of it is meant. -/
theorem endsAtTableCost_of_ne_prefixCb (i : Instr) (hi : ∀ o2, i ≠ .prefixCb o2) (s : State) : EndsAtTableCost i s := by
  cases i
  case prefixCb o2 => exact absurd rfl (hi o2)
  case jrCcE cc _ | jpCcNn cc _ | callCcNn cc _ | retCc cc => cases cc <;> exact ⟨_, (apply_ite₂ done _ _ _ _ _).symm⟩
  case ldRrNn p _ | incRr p | decRr p | addHlRr p => cases p <;> exact ⟨_, rfl⟩
  case push q | pop q => cases q <;> exact ⟨_, rfl⟩
  case ldRR dst r => cases dst <;> cases r <;> exact ⟨_, rfl⟩
  case incR r | decR r | ldRN r _ | ldRHl r | ldHlR r | addAR r | adcAR r | subR r | sbcAR r | andR r | xorR r | orR r
      | cpR r | rlcR r | rrcR r | rlR r | rrR r | slaR r | sraR r | swapR r | srlR r =>
    cases r <;> exact ⟨_, rfl⟩
  case rst k | bitBHl k | resBHl k | setBHl k => fin_cases k <;> exact ⟨_, rfl⟩
  case bitBR k r | resBR k r | setBR k r => fin_cases k <;> cases r <;> exact ⟨_, rfl⟩
  -- The opcode byte of every other instruction is a constant.
  all_goals exact ⟨_, rfl⟩

theorem endsAtTableCost (i : Instr) (s : State) : EndsAtTableCost i s := by
  by_cases h : ∃ o2, i = .prefixCb o2
  · obtain ⟨o2, rfl⟩ := h
    obtain ⟨u, hu⟩ := endsAtTableCost_of_ne_prefixCb _ (decodeExtended_ne_prefixCb o2) s
    rw [condition_decodeExtended, ← tableCost_prefixCb] at hu
    exact ⟨u, (execExtended_eq o2 s).trans hu⟩
  · exact endsAtTableCost_of_ne_prefixCb i (fun o2 h' => h ⟨o2, h'⟩) s

/-- Settles O23: an instruction ends by setting the cost of its table entry. -/
theorem costsOfTheTable : Obligations.CostsOfTheTable := by
  intro i s t h
  obtain ⟨u, hu⟩ := endsAtTableCost i s
  cases hu.symm.trans h
  rfl

/-! ### The undefined opcodes -/

/-- The undefined bytes with their instructions (R116). -/
def undefinedRows : List (Byte × Instr) :=
  [(0xD3, .undefD3), (0xDB, .undefDB), (0xDD, .undefDD), (0xE3, .undefE3), (0xE4, .undefE4), (0xEB, .undefEB),
   (0xEC, .undefEC), (0xED, .undefED), (0xF4, .undefF4), (0xFC, .undefFC), (0xFD, .undefFD)]

theorem encodes_undefined : ∀ p ∈ undefinedRows, Encodes [p.1] p.2 := by
  intro p hp rest
  fin_cases hp <;> rfl

theorem exec_undefined (s : State) : ∀ p ∈ undefinedRows, exec p.2 s = done 0 (s.emit (s.regs.pc - 1) p.1) := by
  intro p hp
  fin_cases hp <;> rfl

/-- An undefined opcode changes nothing but the diagnostic stream and the cost. -/
theorem emit_setCost_frame (s : State) (a : Word) (o : Byte) (n : Nat) :
    s.KeepsRegs ((s.emit a o).setCost n) ∧ s.KeepsHidden ((s.emit a o).setCost n) ∧ s.KeepsMemory ((s.emit a o).setCost n) :=
  ⟨⟨fun _ => rfl, rfl, rfl, rfl⟩, ((Evolves.refl.emit a o).cost n).keepsHidden, rfl,
    fun b => (peek_setCost _ n b).trans (peek_emit s a o b)⟩

/-- The fields of the undefined bytes among the opcodes from 0xC0 on (R102, R114, R116). -/
abbrev UndefinedFields (o : Byte) : Prop :=
  (fieldZ o = 3 ∧ 2 ≤ fieldY o ∧ fieldY o ≤ 5) ∨ (fieldZ o = 4 ∧ 4 ≤ fieldY o) ∨
  (fieldZ o = 5 ∧ fieldQ o ≠ 0 ∧ fieldP o ≠ 0)

theorem undefined_byte_iff : ∀ o : Byte, o ∈ undefinedRows.map Prod.fst ↔ fieldX o = 3 ∧ UndefinedFields o := by
  decide

theorem decodeX0_defined (o n h : Byte) : decodeX0 o n h ∉ undefinedRows.map Prod.snd := by
  fun_cases decodeX0 o n h <;> simp [undefinedRows]

theorem decodeX1_defined (o : Byte) : decodeX1 o ∉ undefinedRows.map Prod.snd := by
  fun_cases decodeX1 o <;> simp [undefinedRows]

theorem decodeX2_defined (o : Byte) : decodeX2 o ∉ undefinedRows.map Prod.snd := by
  fun_cases decodeX2 o <;> simp [undefinedRows]

theorem decodeExtended_defined (o : Byte) : decodeExtended o ∉ undefinedRows.map Prod.snd := by
  fun_cases decodeExtended o <;> simp [undefinedRows]

/-- From 0xC0 on the fields decide alone; only at 0xCB does an operand byte choose among instructions, all of them defined. -/
theorem decodeX3_undefined_iff (o n h : Byte) : decodeX3 o n h ∈ undefinedRows.map Prod.snd ↔ UndefinedFields o := by
  have hy : fieldY o < 8 := Nat.mod_lt _ (by decide)
  fun_cases decodeX3 o n h
  case case17 hz hy => simp [decodeExtended_defined, UndefinedFields, hz, hy]
  all_goals
    simp only [undefinedRows, UndefinedFields, imp_false, List.map_cons, List.map_nil, List.mem_cons, List.not_mem_nil,
      reduceCtorEq, or_false, or_true, true_iff, false_iff] at *
    omega

theorem decodeOp_undefined_iff (o n h : Byte) :
    decodeOp o n h ∈ undefinedRows.map Prod.snd ↔ o ∈ undefinedRows.map Prod.fst := by
  rw [undefined_byte_iff]
  fun_cases decodeOp o n h
  case case1 hx => simp [decodeX0_defined, hx]
  case case2 hx => simp [decodeX1_defined, hx]
  case case3 hx => simp [decodeX2_defined, hx]
  case case4 h0 h1 h2 =>
    have hx : fieldX o = 3 := by
      have := o.isLt
      simp only [fieldX, imp_false] at *
      omega
    simp only [decodeX3_undefined_iff, hx, true_and]

/-- What is read off a list is the reading of its first byte, whatever operand bytes that takes (R118). -/
theorem eq_decodeOp_of_decode {o : Byte} {rest rest' : List Byte} {i : Instr} (h : decode (o :: rest) = .ok (i, rest')) :
    ∃ n h, i = decodeOp o n h := by
  simp only [decode] at h
  split at h <;> cases h <;> exact ⟨_, _, rfl⟩

/-- Settles O53: the rows of the undefined bytes, and the fields by which the decoder comes to them. -/
theorem undefinedOpcodes : Obligations.UndefinedOpcodes := by
  intro s o
  refine ⟨fun i hi => ?_, fun i rest rest' h => ?_⟩
  · obtain ⟨hregs, hhidden, hmemory⟩ := emit_setCost_frame s (s.regs.pc - 1) o 0
    exact ⟨encodes_undefined _ hi, _, exec_undefined s _ hi, rfl, rfl, rfl, rfl, hregs, hhidden, hmemory⟩
  · obtain ⟨n, h', rfl⟩ := eq_decodeOp_of_decode h
    exact decodeOp_undefined_iff o n h'

end Sys2Proof.Machine
end

section
/-! PROOFS. The 8-bit loads and stores (spec 40_load8.md R131 to R149). -/

namespace Sys2Proof.Machine

variable {s t : State} {l : List Reg8}

/-! ### Updates under which only the listed registers differ -/

theorem onlyRegs_refl (s : State) (l : List Reg8) : s.OnlyRegs s l :=
  ⟨⟨fun _ _ => rfl, rfl, rfl, ⟨rfl, rfl, rfl⟩, Evolves.refl.keepsHidden⟩, rfl⟩

theorem onlyRegs_afterRead (s : State) (a : Word) (l : List Reg8) : s.OnlyRegs (s.afterRead a) l := by
  refine ⟨⟨fun r _ => ?_, ?_, ?_, ⟨?_, ?_, ?_⟩, (Evolves.refl.read a).keepsHidden⟩, ?_⟩ <;> simp [State.reg, State.flags]

theorem onlyRegs_writeByte (s : State) (a : Word) (v : Byte) (l : List Reg8) : s.OnlyRegs (s.writeByte a v) l := by
  obtain ⟨hreg, hflags, hsp, hpc⟩ := keepsRegs_writeByte s a v
  exact ⟨⟨fun r _ => hreg r, hsp, hpc, keepsControl_writeByte s a v, keepsHidden_writeByte s a v⟩, hflags⟩

theorem State.OnlyRegs.setCost (h : s.OnlyRegs t l) (n : Nat) : s.OnlyRegs (t.setCost n) l := h

theorem State.OnlyRegs.setReg (h : s.OnlyRegs t l) {r : Reg8} (hr : r ∈ l) (v : Byte) : s.OnlyRegs (t.setReg r v) l := by
  obtain ⟨⟨hreg, hsp, hpc, hcontrol, hhidden⟩, hflags⟩ := h
  refine ⟨⟨fun r' hr' => ?_, (Regs.setReg_sp ..).trans hsp, (Regs.setReg_pc ..).trans hpc, hcontrol, hhidden⟩,
    (Regs.setReg_f ..).trans hflags⟩
  exact (Regs.reg_setReg_ne _ (ne_of_mem_of_not_mem hr hr').symm v).trans (hreg r' hr')

theorem Regs.reg_setPair_hl_ne (g : Regs) {r : Reg8} (hh : r ≠ .h) (hl : r ≠ .l) (w : Word) :
    (g.setPair .hl w).reg r = g.reg r := by
  cases r
  case h => exact absurd rfl hh
  case l => exact absurd rfl hl
  all_goals rfl

theorem State.OnlyRegs.setPair_hl (h : s.OnlyRegs t l) (hh : .h ∈ l) (hl : .l ∈ l) (w : Word) :
    s.OnlyRegs (t.setPair .hl w) l := by
  obtain ⟨⟨hreg, hsp, hpc, hcontrol, hhidden⟩, hflags⟩ := h
  refine ⟨⟨fun r hr => ?_, hsp, hpc, hcontrol, hhidden⟩, hflags⟩
  exact (Regs.reg_setPair_hl_ne _ (ne_of_mem_of_not_mem hh hr).symm (ne_of_mem_of_not_mem hl hr).symm w).trans (hreg r hr)

/-! ### What a load and a store do

The meaning of every 8-bit load and store is one of these outcomes by definition. -/

/-- A byte set in the register `r`, with no access to the bus. -/
theorem done_setReg (s : State) (r : Reg8) (v : Byte) (n : Nat) :
    ∃ t, done n (s.setReg r v) = .next t ∧ t.cost = n ∧ t.reg r = v ∧ s.OnlyRegs t [r] ∧ s.KeepsMemory t :=
  ⟨_, rfl, rfl, Regs.reg_setReg_self .., ((onlyRegs_refl s _).setReg List.mem_cons_self v).setCost n, rfl, fun _ => by simp⟩

/-- A byte read at `a` into the register `r`. -/
theorem done_load (s : State) (a : Word) (r : Reg8) (n : Nat) :
    ∃ t, done n ((s.afterRead a).setReg r (s.peek a)) = .next t ∧ t.cost = n ∧ t.reg r = s.peek a ∧ s.OnlyRegs t [r] ∧
      s.KeepsMemoryReading a t :=
  ⟨_, rfl, rfl, Regs.reg_setReg_self .., ((onlyRegs_afterRead s a _).setReg List.mem_cons_self _).setCost n,
    keepsMemoryReading_of (fun _ => by simp) rfl⟩

/-- A read in the high page does not drop the overlay. -/
theorem done_load_highPage (s : State) (v : Byte) (r : Reg8) (n : Nat) :
    ∃ t, done n ((s.afterRead (highPage v)).setReg r (s.peek (highPage v))) = .next t ∧ t.cost = n ∧
      t.reg r = s.peek (highPage v) ∧ s.OnlyRegs t [r] ∧ s.KeepsMemory t := by
  obtain ⟨t, hnext, hcost, hreg, honly, hmem⟩ := done_load s (highPage v) r n
  exact ⟨t, hnext, hcost, hreg, honly, keepsMemory_of_reading hmem (highPage_ne v)⟩

/-- A byte read at `a` into the accumulator, and `HL` stepped to `w`. -/
theorem done_load_setPair (s : State) (a w : Word) (n : Nat) :
    ∃ t, done n (((s.afterRead a).setReg .a (s.peek a)).setPair .hl w) = .next t ∧ t.cost = n ∧ t.reg .a = s.peek a ∧
      t.pair .hl = w ∧ s.OnlyRegs t [.a, .h, .l] ∧ s.KeepsMemoryReading a t :=
  ⟨_, rfl, rfl, rfl, Regs.pair_setPair_self _ .hl w,
    (((onlyRegs_afterRead s a _).setReg (by decide) _).setPair_hl (by decide) (by decide) w).setCost n,
    keepsMemoryReading_of (fun _ => by simp) rfl⟩

/-- A byte written at `a`. -/
theorem done_store (s : State) (a : Word) (v : Byte) (n : Nat) :
    ∃ t, done n (s.writeByte a v) = .next t ∧ t.cost = n ∧ s.Stores a v t ∧ s.OnlyRegs t [] :=
  ⟨_, rfl, rfl, stores_of (fun _ => peek_setCost ..) rfl, (onlyRegs_writeByte s a v []).setCost n⟩

/-- A byte written at `a`, and `HL` stepped to `w`. -/
theorem done_store_setPair (s : State) (a : Word) (v : Byte) (w : Word) (n : Nat) :
    ∃ t, done n ((s.writeByte a v).setPair .hl w) = .next t ∧ t.cost = n ∧ s.Stores a v t ∧ t.pair .hl = w ∧
      s.OnlyRegs t [.h, .l] :=
  ⟨_, rfl, rfl, stores_of (fun _ => by simp) rfl, Regs.pair_setPair_self _ .hl w,
    ((onlyRegs_writeByte s a v _).setPair_hl (by decide) (by decide) w).setCost n⟩

/-! ### The encodings with a register or an address in them -/

/-- Bytes that spell the encoding of a well-formed instruction are that instruction. -/
theorem encodes_of_roundTrip {i : Instr} {bytes : List Byte} (h : Laws.RoundTrip.Statement i) (hw : i.wellFormed = true)
    (hbytes : encode i = bytes) : Encodes bytes i := hbytes ▸ h hw

theorem encodes_ldRR (r' r : Reg8) : Encodes [byte233 0b01 r'.bits r.bits] (.ldRR r' r) :=
  encodes_of_roundTrip (Laws.RoundTrip.ldRR r' r) rfl (by cases r' <;> cases r <;> rfl)

theorem encodes_ldRN (r : Reg8) (n : Byte) : Encodes [byte233 0b00 r.bits 0b110, n] (.ldRN r n) :=
  encodes_of_roundTrip (Laws.RoundTrip.ldRN r n) rfl (by cases r <;> rfl)

theorem encodes_ldRHl (r : Reg8) : Encodes [byte233 0b01 r.bits 0b110] (.ldRHl r) :=
  encodes_of_roundTrip (Laws.RoundTrip.ldRHl r) rfl (by cases r <;> rfl)

theorem encodes_ldHlR (r : Reg8) : Encodes [byte233 0b01 0b110 r.bits] (.ldHlR r) :=
  encodes_of_roundTrip (Laws.RoundTrip.ldHlR r) rfl (by cases r <;> rfl)

theorem encodes_ldANn (nn : Word) : Encodes [0b11111010, nn.setWidth 8, (nn >>> 8).setWidth 8] (.ldANn nn) :=
  encodes_of_roundTrip (Laws.RoundTrip.ldANn nn) rfl (by rw [← lo_eq, ← hi_eq]; rfl)

theorem encodes_ldNnA (nn : Word) : Encodes [0b11101010, nn.setWidth 8, (nn >>> 8).setWidth 8] (.ldNnA nn) :=
  encodes_of_roundTrip (Laws.RoundTrip.ldNnA nn) rfl (by rw [← lo_eq, ← hi_eq]; rfl)

/-! ### The obligations -/

/-- Settles O29: each store is a write of its byte at its address. -/
theorem storeByte : Obligations.StoreByte := by
  intro s r n nn
  exact ⟨⟨encodes_ldHlR r, done_store s s.hl (s.reg r) 2⟩,
    ⟨Laws.RoundTrip.ldHlN n rfl, done_store s s.hl n 3⟩,
    ⟨Laws.RoundTrip.ldBcA rfl, done_store s (s.pair .bc) (s.reg .a) 2⟩,
    ⟨Laws.RoundTrip.ldDeA rfl, done_store s (s.pair .de) (s.reg .a) 2⟩,
    ⟨encodes_ldNnA nn, done_store s nn (s.reg .a) 4⟩,
    ⟨Laws.RoundTrip.ldhCA rfl, done_store s (highPage (s.reg .c)) (s.reg .a) 2⟩,
    ⟨Laws.RoundTrip.ldhNA n rfl, done_store s (highPage n) (s.reg .a) 3⟩,
    ⟨Laws.RoundTrip.ldHlDecA rfl, done_store_setPair s s.hl (s.reg .a) (s.hl - 1) 2⟩,
    ⟨Laws.RoundTrip.ldHlIncA rfl, done_store_setPair s s.hl (s.reg .a) (s.hl + 1) 2⟩⟩

/-- Settles O27: each load sets its register. -/
theorem loadRegister : Obligations.LoadRegister := by
  intro s r' r n
  exact ⟨⟨encodes_ldRR r' r, done_setReg s r' (s.reg r) 1⟩, ⟨encodes_ldRN r' n, done_setReg s r' n 2⟩⟩

/-- Settles O28: each load is a read of its address into its register. -/
theorem loadFromMemory : Obligations.LoadFromMemory := by
  intro s r' n nn
  exact ⟨⟨encodes_ldRHl r', done_load s s.hl r' 2⟩,
    ⟨Laws.RoundTrip.ldABc rfl, done_load s (s.pair .bc) .a 2⟩,
    ⟨Laws.RoundTrip.ldADe rfl, done_load s (s.pair .de) .a 2⟩,
    ⟨encodes_ldANn nn, done_load s nn .a 4⟩,
    ⟨Laws.RoundTrip.ldhAC rfl, done_load_highPage s (s.reg .c) .a 2⟩,
    ⟨Laws.RoundTrip.ldhAN n rfl, done_load_highPage s n .a 3⟩,
    ⟨Laws.RoundTrip.ldAHlDec rfl, done_load_setPair s s.hl (s.hl - 1) 2⟩,
    ⟨Laws.RoundTrip.ldAHlInc rfl, done_load_setPair s s.hl (s.hl + 1) 2⟩⟩

end Sys2Proof.Machine
end

section
/-! PROOFS. The 16-bit loads and the stack (spec 41_load16.md R160 to R165, 43_alu16.md R223). -/

namespace Sys2Proof.Machine

variable {s t : State} {l : List Reg8}

/-! ### Updates of a pair -/

theorem State.KeepsRegsBut.setReg (h : s.KeepsRegsBut t l) {r : Reg8} (hr : r ∈ l) (v : Byte) :
    s.KeepsRegsBut (t.setReg r v) l := fun r' hr' =>
  (Regs.reg_setReg_ne _ (ne_of_mem_of_not_mem hr hr').symm v).trans (h r' hr')

/-- A pair is written as its high register and its low register. -/
theorem keepsRegsBut_setPair (hreg : ∀ r, t.reg r = s.reg r) (p : Pair) (w : Word) :
    s.KeepsRegsBut (t.setPair p w) p.halves := by
  have h : s.KeepsRegsBut t p.halves := fun r _ => hreg r
  cases p
  case bc => exact (h.setReg (r := .b) (by decide) (hi w)).setReg (r := .c) (by decide) (lo w)
  case de => exact (h.setReg (r := .d) (by decide) (hi w)).setReg (r := .e) (by decide) (lo w)
  case hl => exact (h.setReg (r := .h) (by decide) (hi w)).setReg (r := .l) (by decide) (lo w)
  case sp => exact h

theorem Regs.setPair_sp_of_ne (g : Regs) {p : Pair} (hp : p ≠ .sp) (w : Word) : (g.setPair p w).sp = g.sp := by
  cases p
  case sp => exact absurd rfl hp
  all_goals rfl

theorem State.OnlyRegsAndFlags.setFlags (h : s.OnlyRegsAndFlags t l) (f : Flags) : s.OnlyRegsAndFlags (t.setFlags f) l := h

/-! ### The flag byte -/

theorem Flags.toByte_and_low (f : Flags) : f.toByte &&& 0x0F = 0x00 := by
  obtain ⟨z, n, h, c⟩ := f
  revert z n h c
  decide

theorem Flags.toByte_ofByte : ∀ v : Byte, (Flags.ofByte v).toByte = v &&& 0xF0 := by decide

/-! ### `SP` plus a displacement (R163, R223) -/

theorem sext16_eq_ofInt : ∀ e : Byte, sext16 e = BitVec.ofInt 16 e.toInt := by decide

theorem addSp16_res (w : Word) (e : Byte) : (addSp16 w e).res = BitVec.ofInt 16 (w.toNat + e.toInt) := by
  rw [BitVec.ofInt_add, ← sext16_eq_ofInt, BitVec.ofInt_natCast, BitVec.ofNat_toNat, BitVec.setWidth_eq]
  rfl

/-- The masks of the carries are remainders. -/
theorem addSp16_flags (w : Word) (e : Byte) :
    (addSp16 w e).flags =
      { z := false, n := false, h := decide (w.toNat % 16 + e.toNat % 16 > 15)
        c := decide (w.toNat % 256 + e.toNat > 255) } := by
  have nibble : (w &&& 0x000F).toNat = w.toNat % 16 := Nat.and_two_pow_sub_one_eq_mod _ 4
  have operand : (e &&& 0x0F).toNat = e.toNat % 16 := Nat.and_two_pow_sub_one_eq_mod _ 4
  have byte : (w &&& 0x00FF).toNat = w.toNat % 256 := Nat.and_two_pow_sub_one_eq_mod _ 8
  rw [addSp16, nibble, operand, byte]

/-! ### Two bytes stored in turn -/

theorem stores_writeByte (s : State) (a : Word) (v : Byte) : s.Stores a v (s.writeByte a v) := stores_of (fun _ => rfl) rfl

theorem onlyRegs_writeWord (s : State) (a w : Word) (l : List Reg8) : s.OnlyRegs (s.writeWord a w) l := by
  refine ⟨⟨fun r _ => ?_, ?_, ?_, ⟨?_, ?_, ?_⟩, (Evolves.refl.writeWord a w).keepsHidden⟩, ?_⟩ <;>
    simp [State.reg, State.flags]

/-! ### The stack -/

theorem keepsRegs_but_sp {w : Word} (h : t.regs = { s.regs with sp := w }) :
    (∀ r, t.reg r = s.reg r) ∧ t.flags = s.flags ∧ t.regs.sp = w ∧ t.regs.pc = s.regs.pc := by
  unfold State.reg State.flags
  rw [h]
  exact ⟨fun _ => rfl, rfl, rfl, rfl⟩

theorem push16_regs (s : State) (w : Word) : (s.push16 w).regs = { s.regs with sp := s.regs.sp - 2 } := writeWord_regs ..

theorem keepsControl_push16 (s : State) (w : Word) : s.KeepsControl (s.push16 w) :=
  ⟨writeWord_ime .., writeWord_halted .., writeWord_diags ..⟩

/-- A state that reads as the one after a push: the low byte stands at the new `SP`, and after it the high byte was stored. -/
theorem stores_of_push16 {w : Word} (h : ∀ b, t.peek b = (s.push16 w).peek b) (hb : t.boot = (s.push16 w).boot) :
    (s.writeByte (s.regs.sp - 2) (lo w)).Stores (s.regs.sp - 1) (hi w) t := by
  rw [push16_eq] at h hb
  rw [← sub_two_succ]
  exact stores_of (fun b => (h b).trans (peek_setSp ..)) hb

theorem pop16_fst (s : State) : s.pop16.1 = word (s.peek (s.regs.sp + 1)) (s.peek s.regs.sp) := readWord_fst_eq ..

theorem pop16_regs (s : State) : s.pop16.2.regs = { s.regs with sp := s.regs.sp + 2 } :=
  congrArg (fun g : Regs => { g with sp := s.regs.sp + 2 }) (readWord_regs ..)

theorem keepsControl_pop16 (s : State) : s.KeepsControl s.pop16.2 :=
  ⟨readWord_ime .., readWord_halted .., readWord_diags ..⟩

theorem pop16_boot (s : State) :
    s.pop16.2.boot = (s.boot && decide (s.regs.sp ≠ 0x0100 ∧ s.regs.sp + 1 ≠ 0x0100)) := readWord_boot ..

theorem peek_pop16 (s : State) {b : Word}
    (h : ¬((s.regs.sp = 0x0100 ∨ s.regs.sp + 1 = 0x0100) ∧ s.boot = true ∧ b.toNat < 0x100)) :
    s.pop16.2.peek b = s.peek b := (peek_setSp ..).trans (peek_readWord s h)

/-! ### The encodings with a pair or an address in them -/

theorem encodes_ldRrNn (p : Pair) (nn : Word) :
    Encodes [byte224 0b00 p.bits 0b0001, nn.setWidth 8, (nn >>> 8).setWidth 8] (.ldRrNn p nn) :=
  encodes_of_roundTrip (Laws.RoundTrip.ldRrNn p nn) rfl (by rw [← lo_eq, ← hi_eq]; cases p <;> rfl)

theorem encodes_ldNnSp (nn : Word) : Encodes [0b00001000, nn.setWidth 8, (nn >>> 8).setWidth 8] (.ldNnSp nn) :=
  encodes_of_roundTrip (Laws.RoundTrip.ldNnSp nn) rfl (by rw [← lo_eq, ← hi_eq]; rfl)

theorem encodes_push (q : PairQ) : Encodes [byte224 0b11 q.bits 0b0101] (.push q) :=
  encodes_of_roundTrip (Laws.RoundTrip.push q) rfl (by cases q <;> rfl)

theorem encodes_pop (q : PairQ) : Encodes [byte224 0b11 q.bits 0b0001] (.pop q) :=
  encodes_of_roundTrip (Laws.RoundTrip.pop q) rfl (by cases q <;> rfl)

/-! ### The obligations -/

/-- Settles O31: a word store of `SP` is its low byte and then its high byte. -/
theorem storeStackPointer : Obligations.StoreStackPointer := by
  intro s nn
  rw [← lo_eq s.regs.sp, ← hi_eq s.regs.sp]
  exact ⟨encodes_ldNnSp nn, _, rfl, rfl, (onlyRegs_writeWord s nn s.regs.sp []).setCost 5,
    stores_of (fun _ => peek_setCost ..) rfl, stores_writeByte s nn _⟩

/-- Settles O32: both instructions are one addition, to `HL` or to `SP`. -/
theorem stackPointerPlusDisplacement : Obligations.StackPointerPlusDisplacement := by
  intro s e sum f
  have hsum : (addSp16 s.regs.sp e).res = sum := addSp16_res _ e
  have hf : (addSp16 s.regs.sp e).flags = f := addSp16_flags _ e
  refine ⟨⟨Laws.RoundTrip.ldHlSpE e rfl, _, rfl, rfl, ?hl, hf, ?frame, rfl, fun _ => by simp⟩,
    Laws.RoundTrip.addSpE e rfl, _, rfl, rfl, hsum, hf, fun _ => rfl, rfl, ⟨rfl, rfl, rfl⟩,
    (((Evolves.refl.setSp _).setFlags _).cost 4).keepsHidden, rfl, fun _ => by simp⟩
  case hl => exact (Regs.pair_setPair_self s.regs .hl _).trans hsum
  case frame =>
    obtain ⟨honly, -⟩ := (onlyRegs_refl s [.h, .l]).setPair_hl (by decide) (by decide) (addSp16 s.regs.sp e).res
    exact honly.setFlags _

/-- Settles O33: a push of the pair's two registers; for `AF` the low one is the flag byte. -/
theorem pushPair : Obligations.PushPair := by
  intro s q
  obtain ⟨hreg, hflags, hsp, hpc⟩ := keepsRegs_but_sp (push16_regs s (s.pairQ q))
  refine ⟨encodes_push q, _, lo (s.pairQ q), hi (s.pairQ q), rfl, rfl, hsp, ?bytes,
    stores_of_push16 (fun _ => peek_setCost ..) rfl, stores_writeByte s _ _, hreg, hflags, hpc, keepsControl_push16 s _,
    ((Evolves.refl.push16 _).cost 4).keepsHidden⟩
  cases q
  case bc | de | hl => exact ⟨hi_word .., lo_word ..⟩
  case af =>
    have hlo : lo (s.pairQ .af) = s.flags.toByte := lo_word ..
    exact ⟨hi_word .., hlo, hlo ▸ s.flags.toByte_and_low⟩

/-- Settles O34: a pop into the pair's two registers; for `AF` the low byte becomes the flags. -/
theorem popPair : Obligations.PopPair := by
  intro s q
  obtain ⟨hreg, hflags, hsp, hpc⟩ := keepsRegs_but_sp (pop16_regs s)
  refine ⟨encodes_pop q, _, rfl, rfl, (Regs.setPairQ_sp ..).trans hsp, ?pair, (Regs.setPairQ_pc ..).trans hpc,
    keepsControl_pop16 s, ((Evolves.refl.pop16.setPairQ _ _).cost 3).keepsHidden, pop16_boot s, fun b hb => ?peek⟩
  case peek => rw [peek_setCost, peek_setPairQ, peek_pop16 s hb]
  have hhi : hi s.pop16.1 = s.peek (s.regs.sp + 1) := by rw [pop16_fst, hi_word]
  have hlo : lo s.pop16.1 = s.peek s.regs.sp := by rw [pop16_fst, lo_word]
  cases q
  case bc => exact ⟨hhi, hlo, keepsRegsBut_setPair hreg .bc _, hflags⟩
  case de => exact ⟨hhi, hlo, keepsRegsBut_setPair hreg .de _, hflags⟩
  case hl => exact ⟨hhi, hlo, keepsRegsBut_setPair hreg .hl _, hflags⟩
  case af =>
    have hf : Flags.ofByte (lo s.pop16.1) = Flags.ofByte (s.peek s.regs.sp) := congrArg Flags.ofByte hlo
    have hbut : s.KeepsRegsBut s.pop16.2 [.a] := fun r _ => hreg r
    exact ⟨hhi, (congrArg Flags.toByte hf).trans (Flags.toByte_ofByte _),
      hbut.setReg (r := .a) (by decide) (hi s.pop16.1), hf⟩

/-- Settles O30: the pair, or `SP`, is set and nothing else. -/
theorem loadPair : Obligations.LoadPair := by
  intro s p nn
  exact ⟨⟨encodes_ldRrNn p nn, _, rfl, rfl, Regs.pair_setPair_self .., keepsRegsBut_setPair (fun _ => rfl) p nn,
      fun hp => Regs.setPair_sp_of_ne _ hp nn, Regs.setPair_pc .., Regs.setPair_f .., ⟨rfl, rfl, rfl⟩,
      ((Evolves.refl.setPair p nn).cost 3).keepsHidden, rfl, fun _ => by simp⟩,
    Laws.RoundTrip.ldSpHl rfl, _, rfl, rfl, rfl, fun _ => rfl, rfl, rfl, ⟨rfl, rfl, rfl⟩,
    ((Evolves.refl.setSp _).cost 2).keepsHidden, rfl, fun _ => by simp⟩

end Sys2Proof.Machine
end

section
/-! PROOFS. The 8-bit arithmetic and logic (spec 42_alu8.md R170 to R204). -/

namespace Sys2Proof.Machine

variable {s : State}

/-! ### Bytes as numbers -/

theorem beq_zero_eq_decide (v : Byte) : (v == 0) = decide (v.toNat = 0) := decide_eq_decide.2 BitVec.toNat_inj.symm

theorem toNat_and_low (v : Byte) : (v &&& 0x0F).toNat = v.toNat % 16 := Nat.and_two_pow_sub_one_eq_mod _ 4

theorem and_low_beq (v k : Byte) : (v &&& 0x0F == k) = decide (v.toNat % 16 = k.toNat) :=
  decide_eq_decide.2 (by rw [← toNat_and_low, BitVec.toNat_inj])

/-! ### The functions of the ALU in numbers -/

theorem add8_res (a b : Byte) (cin : Bool) : (add8 a b cin).res.toNat = (a.toNat + b.toNat + carryIn cin) % 256 :=
  BitVec.toNat_ofNat ..

theorem add8_flags (a b : Byte) (cin : Bool) :
    (add8 a b cin).flags =
      { z := decide ((a.toNat + b.toNat + carryIn cin) % 256 = 0), n := false
        h := decide (a.toNat % 16 + b.toNat % 16 + carryIn cin > 15), c := decide (a.toNat + b.toNat + carryIn cin > 255) } := by
  rw [← add8_res, ← beq_zero_eq_decide, ← toNat_and_low a, ← toNat_and_low b]
  rfl

theorem sub8_res (a b : Byte) (cin : Bool) :
    ((sub8 a b cin).res.toNat : Int) = ((a.toNat : Int) - b.toNat - carryIn cin) % 256 := by
  have hnonneg : 0 ≤ ((a.toNat : Int) - b.toNat - carryIn cin) % 256 := Int.emod_nonneg _ (by decide)
  exact (congrArg Nat.cast (BitVec.toNat_ofInt _)).trans (Int.toNat_of_nonneg hnonneg)

/-- A difference below zero is a borrow. -/
theorem sub8_flags (a b : Byte) (cin : Bool) :
    (sub8 a b cin).flags =
      { z := decide (((a.toNat : Int) - b.toNat - carryIn cin) % 256 = 0), n := true
        h := decide (a.toNat % 16 < b.toNat % 16 + carryIn cin), c := decide (a.toNat < b.toNat + carryIn cin) } := by
  have borrow (x y c : Nat) : decide ((x : Int) - y - c < 0) = decide (x < y + c) := decide_eq_decide.2 (by omega)
  have hz : decide (((a.toNat : Int) - b.toNat - carryIn cin) % 256 = 0) = ((sub8 a b cin).res == 0) := by
    rw [← sub8_res, beq_zero_eq_decide]
    exact decide_eq_decide.2 Int.natCast_eq_zero
  rw [hz, ← borrow, ← borrow, ← toNat_and_low a, ← toNat_and_low b]
  rfl

/-- Without a carry in, the difference of two bytes is 0 modulo 256 only if they are equal. -/
theorem sub8_flags_compare (a b : Byte) :
    (sub8 a b false).flags =
      { z := decide (a.toNat = b.toNat), n := true, h := decide (a.toNat % 16 < b.toNat % 16)
        c := decide (a.toNat < b.toNat) } := by
  have hz : ((a.toNat : Int) - b.toNat - carryIn false) % 256 = 0 ↔ a.toNat = b.toNat := by
    have := a.isLt
    have := b.isLt
    rw [show carryIn false = 0 from rfl]
    omega
  rw [sub8_flags, decide_eq_decide.2 hz]
  rfl

theorem inc8_res (v : Byte) (f : Flags) : (inc8 v f).res = BitVec.ofNat 8 (v.toNat + 1) := by
  rw [BitVec.ofNat_add, BitVec.ofNat_toNat, BitVec.setWidth_eq]
  rfl

theorem inc8_flags (v : Byte) (f : Flags) :
    (inc8 v f).flags = { z := decide (v.toNat = 255), n := false, h := decide (v.toNat % 16 = 15), c := f.c } := by
  have hz : (v + 1).toNat = 0 ↔ v.toNat = 255 := by bv_omega
  rw [inc8, beq_zero_eq_decide, decide_eq_decide.2 hz, and_low_beq]
  rfl

theorem dec8_res (v : Byte) (f : Flags) : (dec8 v f).res = BitVec.ofNat 8 (v.toNat + 255) := by
  rw [BitVec.ofNat_add, BitVec.ofNat_toNat, BitVec.setWidth_eq]
  exact BitVec.sub_eq_add_neg ..

theorem dec8_flags (v : Byte) (f : Flags) :
    (dec8 v f).flags = { z := decide (v.toNat = 1), n := true, h := decide (v.toNat % 16 = 0), c := f.c } := by
  have hz : (v - 1).toNat = 0 ↔ v.toNat = 1 := by bv_omega
  rw [dec8, beq_zero_eq_decide, decide_eq_decide.2 hz, and_low_beq]
  rfl

/-! ### The decimal adjustment (R201) -/

/-- The adjustment of the low digit. -/
def daaLow (a : Byte) (f : Flags) : Nat := if f.h = true ∨ (f.n = false ∧ a.toNat % 16 > 9) then 0x06 else 0

/-- The adjustment of the high digit. -/
def daaHigh (a : Byte) (f : Flags) : Nat := if f.c = true ∨ (f.n = false ∧ a.toNat > 0x99) then 0x60 else 0

/-- The two adjustments have no bit in common. -/
theorem adjustment_or (p q : Prop) [Decidable p] [Decidable q] :
    ((if p then 0x06 else 0x00 : Byte) ||| (if q then 0x60 else 0x00)) =
      BitVec.ofNat 8 ((if p then 0x06 else 0) + (if q then 0x60 else 0)) := by
  by_cases hp : p <;> by_cases hq : q <;> simp [hp, hq]

/-- After an addition (`N` clear) the adjustment is added; both tests look at the value before it. -/
theorem daa8_of_add (a : Byte) {f : Flags} (hn : f.n = false) :
    daa8 a f =
      let res := a + BitVec.ofNat 8 (daaLow a f + daaHigh a f)
      { res := res, flags := { z := res == 0, n := f.n, h := false, c := f.c || decide (a.toNat > 0x99) } } := by
  have hlow : a &&& 0x0F > 0x09 ↔ a.toNat % 16 > 9 := by rw [← toNat_and_low]; rfl
  have hhigh : a > 0x99 ↔ a.toNat > 0x99 := Iff.rfl
  simp only [daa8, daaLow, daaHigh, hn, if_true, adjustment_or, Bool.or_eq_true, decide_eq_true_eq, hlow, hhigh, true_and]

/-- After a subtraction (`N` set) the adjustment is subtracted; the flags alone choose it. -/
theorem daa8_of_sub (a : Byte) {f : Flags} (hn : f.n = true) :
    daa8 a f =
      let res := a - BitVec.ofNat 8 (daaLow a f + daaHigh a f)
      { res := res, flags := { z := res == 0, n := f.n, h := false, c := f.c } } := by
  simp only [daa8, daaLow, daaHigh, hn, Bool.true_eq_false, if_false, adjustment_or, false_and, or_false]

theorem daaLow_add_daaHigh_le (a : Byte) (f : Flags) : daaLow a f + daaHigh a f ≤ 0x66 := by
  unfold daaLow daaHigh
  split <;> split <;> decide

theorem daa8_res (a : Byte) (f : Flags) :
    (daa8 a f).res.toNat =
      if f.n then (a.toNat + 256 - (daaLow a f + daaHigh a f)) % 256 else (a.toNat + daaLow a f + daaHigh a f) % 256 := by
  have hle := daaLow_add_daaHigh_le a f
  cases hn : f.n
  case false =>
    rw [daa8_of_add a hn]
    simp only [Bool.false_eq_true, if_false, BitVec.toNat_add, BitVec.toNat_ofNat]
    omega
  case true =>
    rw [daa8_of_sub a hn]
    simp only [if_true, BitVec.toNat_sub, BitVec.toNat_ofNat]
    omega

theorem daa8_flags (a : Byte) (f : Flags) :
    (daa8 a f).flags =
      { z := decide ((daa8 a f).res.toNat = 0), n := f.n, h := false, c := f.c || (!f.n && decide (a.toNat > 0x99)) } := by
  cases hn : f.n
  case false => simp only [daa8_of_add a hn, hn, beq_zero_eq_decide, Bool.not_false, Bool.true_and]
  case true => simp only [daa8_of_sub a hn, hn, beq_zero_eq_decide, Bool.not_true, Bool.false_and, Bool.or_false]

/-! ### What an ALU instruction does

The meaning of every ALU instruction is one of these outcomes by definition. -/

/-- A byte set in the register `r` and the flags written, with no access to the bus. -/
theorem done_setReg_setFlags (s : State) (r : Reg8) (v : Byte) (f : Flags) (n : Nat) :
    ∃ t, done n ((s.setReg r v).setFlags f) = .next t ∧ t.cost = n ∧ t.reg r = v ∧ t.flags = f ∧ s.OnlyRegsAndFlags t [r] ∧
      s.KeepsMemory t := by
  obtain ⟨honly, -⟩ := (onlyRegs_refl s [r]).setReg List.mem_cons_self v
  exact ⟨_, rfl, rfl, Regs.reg_setReg_self .., rfl, honly.setFlags f, rfl, fun _ => by simp⟩

/-- The flags written, and nothing else. -/
theorem done_setFlags (s : State) {f f' : Flags} (hf : f = f') (n : Nat) :
    ∃ t, done n (s.setFlags f) = .next t ∧ t.cost = n ∧ (t.flags = f' ∧ s.OnlyRegsAndFlags t []) ∧ s.KeepsMemory t := by
  obtain ⟨honly, -⟩ := onlyRegs_refl s []
  exact ⟨_, rfl, rfl, ⟨hf, honly.setFlags f⟩, rfl, fun _ => by simp⟩

/-- A byte read at `a`, and the flags written. -/
theorem done_read_setFlags (s : State) (a : Word) {f f' : Flags} (hf : f = f') (n : Nat) :
    ∃ t, done n ((s.afterRead a).setFlags f) = .next t ∧ t.cost = n ∧ (t.flags = f' ∧ s.OnlyRegsAndFlags t []) ∧
      s.KeepsMemoryReading a t := by
  obtain ⟨honly, -⟩ := onlyRegs_afterRead s a []
  exact ⟨_, rfl, rfl, ⟨hf, honly.setFlags f⟩, keepsMemoryReading_of (fun _ => by simp) rfl⟩

theorem onlyRegs_read_writeByte (s : State) (a : Word) (v : Byte) (l : List Reg8) :
    s.OnlyRegs ((s.afterRead a).writeByte a v) l := by
  refine ⟨⟨fun r _ => ?_, ?_, ?_, ⟨?_, ?_, ?_⟩, ((Evolves.refl.read a).write a v).keepsHidden⟩, ?_⟩ <;>
    simp [State.reg, State.flags]

/-- The byte at `a` read and written again, and the flags written. -/
theorem done_modify_setFlags (s : State) (a : Word) (v : Byte) (f : Flags) (n : Nat) :
    ∃ t, done n (((s.afterRead a).writeByte a v).setFlags f) = .next t ∧ t.cost = n ∧ (s.afterRead a).Stores a v t ∧
      t.flags = f ∧ s.OnlyRegsAndFlags t [] := by
  obtain ⟨honly, -⟩ := onlyRegs_read_writeByte s a v []
  exact ⟨_, rfl, rfl, stores_of (fun _ => by simp) rfl, rfl, honly.setFlags f⟩

/-- The accumulator and the flags of `t` are the ALU's answer `o`, and nothing else of the registers is written. -/
abbrev State.Accumulates (s : State) (o : AluOut) (t : State) : Prop :=
  t.reg .a = o.res ∧ t.flags = o.flags ∧ s.OnlyRegsAndFlags t [.a]

/-- An operand in a register or in the instruction: the answer `o` accumulated, whatever `P` says of that. -/
theorem done_accumulate {P : State → Prop} {o : AluOut} (hP : ∀ t, s.Accumulates o t → P t) (n : Nat) :
    ∃ t, done n (s.accumulate o) = .next t ∧ t.cost = n ∧ P t ∧ s.KeepsMemory t := by
  obtain ⟨t, hnext, hcost, hreg, hflags, honly, hmem⟩ := done_setReg_setFlags s .a o.res o.flags n
  exact ⟨t, hnext, hcost, hP t ⟨hreg, hflags, honly⟩, hmem⟩

/-- An operand read at `a`. -/
theorem done_read_accumulate (a : Word) {P : State → Prop} {o : AluOut} (hP : ∀ t, s.Accumulates o t → P t) (n : Nat) :
    ∃ t, done n ((s.afterRead a).accumulate o) = .next t ∧ t.cost = n ∧ P t ∧ s.KeepsMemoryReading a t := by
  obtain ⟨honly, -⟩ := (onlyRegs_afterRead s a [.a]).setReg List.mem_cons_self o.res
  exact ⟨_, rfl, rfl, hP _ ⟨rfl, rfl, honly.setFlags o.flags⟩, keepsMemoryReading_of (fun _ => by simp) rfl⟩

/-! ### The encodings with a register in them -/

theorem encodes_addAR (r : Reg8) : Encodes [byte233 0b10 0b000 r.bits] (.addAR r) :=
  encodes_of_roundTrip (Laws.RoundTrip.addAR r) rfl (by cases r <;> rfl)

theorem encodes_adcAR (r : Reg8) : Encodes [byte233 0b10 0b001 r.bits] (.adcAR r) :=
  encodes_of_roundTrip (Laws.RoundTrip.adcAR r) rfl (by cases r <;> rfl)

theorem encodes_subR (r : Reg8) : Encodes [byte233 0b10 0b010 r.bits] (.subR r) :=
  encodes_of_roundTrip (Laws.RoundTrip.subR r) rfl (by cases r <;> rfl)

theorem encodes_sbcAR (r : Reg8) : Encodes [byte233 0b10 0b011 r.bits] (.sbcAR r) :=
  encodes_of_roundTrip (Laws.RoundTrip.sbcAR r) rfl (by cases r <;> rfl)

theorem encodes_andR (r : Reg8) : Encodes [byte233 0b10 0b100 r.bits] (.andR r) :=
  encodes_of_roundTrip (Laws.RoundTrip.andR r) rfl (by cases r <;> rfl)

theorem encodes_xorR (r : Reg8) : Encodes [byte233 0b10 0b101 r.bits] (.xorR r) :=
  encodes_of_roundTrip (Laws.RoundTrip.xorR r) rfl (by cases r <;> rfl)

theorem encodes_orR (r : Reg8) : Encodes [byte233 0b10 0b110 r.bits] (.orR r) :=
  encodes_of_roundTrip (Laws.RoundTrip.orR r) rfl (by cases r <;> rfl)

theorem encodes_cpR (r : Reg8) : Encodes [byte233 0b10 0b111 r.bits] (.cpR r) :=
  encodes_of_roundTrip (Laws.RoundTrip.cpR r) rfl (by cases r <;> rfl)

theorem encodes_incR (r : Reg8) : Encodes [byte233 0b00 r.bits 0b100] (.incR r) :=
  encodes_of_roundTrip (Laws.RoundTrip.incR r) rfl (by cases r <;> rfl)

theorem encodes_decR (r : Reg8) : Encodes [byte233 0b00 r.bits 0b101] (.decR r) :=
  encodes_of_roundTrip (Laws.RoundTrip.decR r) rfl (by cases r <;> rfl)

/-! ### The obligations -/

/-- Settles O35: each form accumulates `add8` of its operand and its carry in. -/
theorem addAndAdc : Obligations.AddAndAdc := by
  intro s r n A sum cin x
  have hsum (b : Byte) (c : Bool) (t : State) : s.Accumulates (add8 (s.reg .a) b c) t → sum t b.toNat (carryIn c) :=
    fun ⟨hreg, hflags, honly⟩ => ⟨hreg ▸ add8_res .., hflags.trans (add8_flags ..), honly⟩
  exact ⟨⟨encodes_addAR r, done_accumulate (hsum (s.reg r) false) 1⟩,
    ⟨Laws.RoundTrip.addAHl rfl, done_read_accumulate s.hl (hsum x false) 2⟩,
    ⟨Laws.RoundTrip.addAN n rfl, done_accumulate (hsum n false) 2⟩,
    ⟨encodes_adcAR r, done_accumulate (hsum (s.reg r) s.flags.c) 1⟩,
    ⟨Laws.RoundTrip.adcAHl rfl, done_read_accumulate s.hl (hsum x s.flags.c) 2⟩,
    ⟨Laws.RoundTrip.adcAN n rfl, done_accumulate (hsum n s.flags.c) 2⟩⟩

/-- Settles O36: each form accumulates `sub8` of its operand and its borrow in. -/
theorem subAndSbc : Obligations.SubAndSbc := by
  intro s r n A diff cin x
  have hdiff (b : Byte) (c : Bool) (t : State) : s.Accumulates (sub8 (s.reg .a) b c) t → diff t b.toNat (carryIn c) :=
    fun ⟨hreg, hflags, honly⟩ => ⟨hreg ▸ sub8_res .., hflags.trans (sub8_flags ..), honly⟩
  exact ⟨⟨encodes_subR r, done_accumulate (hdiff (s.reg r) false) 1⟩,
    ⟨Laws.RoundTrip.subHl rfl, done_read_accumulate s.hl (hdiff x false) 2⟩,
    ⟨Laws.RoundTrip.subN n rfl, done_accumulate (hdiff n false) 2⟩,
    ⟨encodes_sbcAR r, done_accumulate (hdiff (s.reg r) s.flags.c) 1⟩,
    ⟨Laws.RoundTrip.sbcAHl rfl, done_read_accumulate s.hl (hdiff x s.flags.c) 2⟩,
    ⟨Laws.RoundTrip.sbcAN n rfl, done_accumulate (hdiff n s.flags.c) 2⟩⟩

/-- Settles O37: each form writes the flags of `sub8` without a borrow in. -/
theorem compareOperations : Obligations.CompareOperations := by
  intro s r n A cmp
  exact ⟨⟨encodes_cpR r, done_setFlags s (sub8_flags_compare _ (s.reg r)) 1⟩,
    ⟨Laws.RoundTrip.cpHl rfl, done_read_setFlags s s.hl (sub8_flags_compare _ (s.peek s.hl)) 2⟩,
    ⟨Laws.RoundTrip.cpN n rfl, done_setFlags s (sub8_flags_compare _ n) 2⟩⟩

/-- Settles O38: each form accumulates `and8`, `xor8` or `or8` of its operand, whose flags are those of the statement by
definition. -/
theorem logicOperations : Obligations.LogicOperations := by
  intro s r n A x logic
  have hand (b : Byte) (t : State) : s.Accumulates (and8 A b) t → logic t (A &&& b) true := id
  have hxor (b : Byte) (t : State) : s.Accumulates (xor8 A b) t → logic t (A ^^^ b) false := id
  have hor (b : Byte) (t : State) : s.Accumulates (or8 A b) t → logic t (A ||| b) false := id
  exact ⟨⟨encodes_andR r, done_accumulate (hand (s.reg r)) 1⟩,
    ⟨Laws.RoundTrip.andHl rfl, done_read_accumulate s.hl (hand x) 2⟩,
    ⟨Laws.RoundTrip.andN n rfl, done_accumulate (hand n) 2⟩,
    ⟨encodes_xorR r, done_accumulate (hxor (s.reg r)) 1⟩,
    ⟨Laws.RoundTrip.xorHl rfl, done_read_accumulate s.hl (hxor x) 2⟩,
    ⟨Laws.RoundTrip.xorN n rfl, done_accumulate (hxor n) 2⟩,
    ⟨encodes_orR r, done_accumulate (hor (s.reg r)) 1⟩,
    ⟨Laws.RoundTrip.orHl rfl, done_read_accumulate s.hl (hor x) 2⟩,
    ⟨Laws.RoundTrip.orN n rfl, done_accumulate (hor n) 2⟩⟩

/-- Settles O39: `inc8` and `dec8`, of a register in place and of the byte at `HL` by a read and a store. -/
theorem incrementAndDecrement : Obligations.IncrementAndDecrement := by
  intro s r v m up down
  refine ⟨⟨encodes_incR r, ?incR⟩, ⟨encodes_decR r, ?decR⟩, ⟨Laws.RoundTrip.incHl rfl, ?incHl⟩,
    Laws.RoundTrip.decHl rfl, ?decHl⟩
  case incR =>
    obtain ⟨t, hnext, hcost, hreg, hflags, hframe⟩ := done_setReg_setFlags s r (inc8 v s.flags).res (inc8 v s.flags).flags 1
    exact ⟨t, hnext, hcost, by rw [hreg, inc8_res, BitVec.toNat_ofNat], hflags.trans (inc8_flags ..), hframe⟩
  case decR =>
    obtain ⟨t, hnext, hcost, hreg, hflags, hframe⟩ := done_setReg_setFlags s r (dec8 v s.flags).res (dec8 v s.flags).flags 1
    exact ⟨t, hnext, hcost, by rw [hreg, dec8_res, BitVec.toNat_ofNat], hflags.trans (dec8_flags ..), hframe⟩
  case incHl =>
    obtain ⟨t, hnext, hcost, hstores, hflags, honly⟩ :=
      done_modify_setFlags s s.hl (inc8 m s.flags).res (inc8 m s.flags).flags 3
    exact ⟨t, hnext, hcost, inc8_res m s.flags ▸ hstores, hflags.trans (inc8_flags ..), honly⟩
  case decHl =>
    obtain ⟨t, hnext, hcost, hstores, hflags, honly⟩ :=
      done_modify_setFlags s s.hl (dec8 m s.flags).res (dec8 m s.flags).flags 3
    exact ⟨t, hnext, hcost, dec8_res m s.flags ▸ hstores, hflags.trans (dec8_flags ..), honly⟩

/-- Settles O40: the answer of `daa8`, whose result is the adjustment added or subtracted. -/
theorem decimalAdjust : Obligations.DecimalAdjust := by
  intro s A f low high res
  have hres : (daa8 (s.reg .a) s.flags).res.toNat = res := daa8_res (s.reg .a) s.flags
  obtain ⟨t, hnext, hcost, hreg, hflags, hframe⟩ :=
    done_setReg_setFlags s .a (daa8 (s.reg .a) s.flags).res (daa8 (s.reg .a) s.flags).flags 1
  refine ⟨Laws.RoundTrip.daa rfl, t, hnext, hcost, hreg ▸ hres, ?flags, hframe⟩
  rw [hflags, daa8_flags, hres]

/-- Settles O42: `CPL` writes the accumulator and two flags, `SCF` and `CCF` flags alone. -/
theorem complementAndCarry : Obligations.ComplementAndCarry := by
  intro s
  refine ⟨⟨Laws.RoundTrip.cpl rfl, ?cpl⟩, ⟨Laws.RoundTrip.scf rfl, ?scf⟩, Laws.RoundTrip.ccf rfl, ?ccf⟩
  case cpl =>
    obtain ⟨t, hnext, hcost, hreg, hframe⟩ := done_setReg_setFlags s .a (~~~s.reg .a) { s.flags with n := true, h := true } 1
    exact ⟨t, hnext, hcost, hreg ▸ BitVec.toNat_not .., hframe⟩
  case scf =>
    obtain ⟨t, hnext, hcost, ⟨hflags, honly⟩, hmem⟩ :=
      done_setFlags s (f := { s.flags with n := false, h := false, c := true }) rfl 1
    exact ⟨t, hnext, hcost, hflags, honly, hmem⟩
  case ccf =>
    obtain ⟨t, hnext, hcost, ⟨hflags, honly⟩, hmem⟩ :=
      done_setFlags s (f := { s.flags with n := false, h := false, c := !s.flags.c }) rfl 1
    exact ⟨t, hnext, hcost, hflags, honly, hmem⟩

end Sys2Proof.Machine
end

section
/-! PROOFS. The 16-bit arithmetic on pairs (spec 43_alu16.md R220 to R222). -/

namespace Sys2Proof.Machine

/-! ### Words as numbers -/

theorem addHl16_res (a b : Word) (f : Flags) : (addHl16 a b f).res.toNat = (a.toNat + b.toNat) % 65536 :=
  BitVec.toNat_ofNat ..

/-- The mask of the carry out of bit 11 is a remainder. -/
theorem addHl16_flags (a b : Word) (f : Flags) :
    (addHl16 a b f).flags =
      { z := f.z, n := false, h := decide (a.toNat % 4096 + b.toNat % 4096 > 4095)
        c := decide (a.toNat + b.toNat > 65535) } := by
  have low (w : Word) : (w &&& 0x0FFF).toNat = w.toNat % 4096 := Nat.and_two_pow_sub_one_eq_mod _ 12
  rw [addHl16, low, low]

/-- Subtracting 1 is adding 65535 modulo 2^16. -/
theorem toNat_sub_one (w : Word) : (w - 1).toNat = (w.toNat + 65535) % 65536 := by
  rw [BitVec.sub_eq_add_neg]
  exact BitVec.toNat_add ..

/-! ### What an instruction on a pair does -/

/-- The pair `p` set to `w`, and nothing else. -/
theorem done_setPair (s : State) (p : Pair) {w : Word} {k : Nat} (hw : w.toNat = k) (n : Nat) :
    ∃ t, done n (s.setPair p w) = .next t ∧ t.cost = n ∧ (t.pair p).toNat = k ∧ s.KeepsRegsBut t p.halves ∧
      (p ≠ .sp → t.regs.sp = s.regs.sp) ∧ t.regs.pc = s.regs.pc ∧ t.flags = s.flags ∧ s.KeepsControl t ∧
      s.KeepsHidden t ∧ s.KeepsMemory t :=
  ⟨_, rfl, rfl, (congrArg BitVec.toNat (Regs.pair_setPair_self ..)).trans hw, keepsRegsBut_setPair (fun _ => rfl) p w,
    fun hp => Regs.setPair_sp_of_ne _ hp w, Regs.setPair_pc .., Regs.setPair_f .., ⟨rfl, rfl, rfl⟩,
    ((Evolves.refl.setPair p w).cost n).keepsHidden, rfl, fun _ => by simp⟩

/-- `HL` set to `w` and the flags written, and nothing else. -/
theorem done_setHl_setFlags (s : State) (w : Word) (f : Flags) (n : Nat) :
    ∃ t, done n ((s.setPair .hl w).setFlags f) = .next t ∧ t.cost = n ∧ t.pair .hl = w ∧ t.flags = f ∧
      s.OnlyRegsAndFlags t [.h, .l] ∧ s.KeepsMemory t := by
  obtain ⟨honly, -⟩ := (onlyRegs_refl s [.h, .l]).setPair_hl (by decide) (by decide) w
  exact ⟨_, rfl, rfl, Regs.pair_setPair_self s.regs .hl w, rfl, honly.setFlags f, rfl, fun _ => by simp⟩

/-! ### The encodings with a pair in them -/

theorem encodes_addHlRr (p : Pair) : Encodes [byte224 0b00 p.bits 0b1001] (.addHlRr p) :=
  encodes_of_roundTrip (Laws.RoundTrip.addHlRr p) rfl (by cases p <;> rfl)

theorem encodes_incRr (p : Pair) : Encodes [byte224 0b00 p.bits 0b0011] (.incRr p) :=
  encodes_of_roundTrip (Laws.RoundTrip.incRr p) rfl (by cases p <;> rfl)

theorem encodes_decRr (p : Pair) : Encodes [byte224 0b00 p.bits 0b1011] (.decRr p) :=
  encodes_of_roundTrip (Laws.RoundTrip.decRr p) rfl (by cases p <;> rfl)

/-! ### The obligations -/

/-- Settles O43: the answer of `addHl16` in `HL` and the flags. -/
theorem addToHl : Obligations.AddToHl := by
  intro s p a b
  obtain ⟨t, hnext, hcost, hpair, hflags, hframe⟩ :=
    done_setHl_setFlags s (addHl16 s.hl (s.pair p) s.flags).res (addHl16 s.hl (s.pair p) s.flags).flags 2
  exact ⟨encodes_addHlRr p, t, hnext, hcost, hpair ▸ addHl16_res .., hflags.trans (addHl16_flags ..), hframe⟩

/-- Settles O44: the pair is set to its value plus or minus 1 and nothing else. -/
theorem incrementAndDecrementPair : Obligations.IncrementAndDecrementPair := by
  intro s p
  exact ⟨⟨encodes_incRr p, done_setPair s p (BitVec.toNat_add (s.pair p) 1) 2⟩,
    ⟨encodes_decRr p, done_setPair s p (toNat_sub_one (s.pair p)) 2⟩⟩

end Sys2Proof.Machine
end

section
/-! PROOFS. The rotates, the shifts, `SWAP` and the bit instructions (spec 44_rotate_shift_bit.md R230 to R256). -/

namespace Sys2Proof.Machine

/-! ### Bits as numbers -/

theorem bit_eq_decide (v : Byte) (k : Nat) : bit v k = decide (v.toNat / 2 ^ k % 2 = 1) :=
  Nat.testBit_eq_decide_div_mod_eq

theorem bit_zero_eq_decide (v : Byte) : bit v 0 = decide (v.toNat % 2 = 1) := by
  rw [bit_eq_decide, pow_zero, Nat.div_one]

theorem bit_seven_eq_decide (v : Byte) : bit v 7 = decide (v.toNat / 128 = 1) := by
  rw [bit_eq_decide]
  exact decide_eq_decide.2 (by omega)

theorem carryIn_decide_eq_one {k : Nat} (hk : k < 2) : carryIn (decide (k = 1)) = k := by
  interval_cases k <;> rfl

theorem carryIn_bit_zero (v : Byte) : carryIn (bit v 0) = v.toNat % 2 := by
  rw [bit_zero_eq_decide, carryIn_decide_eq_one (by omega)]

theorem carryIn_bit_seven (v : Byte) : carryIn (bit v 7) = v.toNat / 128 := by
  rw [bit_seven_eq_decide, carryIn_decide_eq_one (by omega)]

theorem toNat_b2n (c : Bool) : (b2n c).toNat = carryIn c := by cases c <;> rfl

theorem carryIn_le_one (c : Bool) : carryIn c ≤ 1 := by cases c <;> decide

/-- A byte moved left by `n` has no bit in common with a byte of `n` bits. -/
theorem toNat_shiftLeft_or (x : Byte) {y : Byte} {n : Nat} (hy : y.toNat < 2 ^ n) :
    (x <<< n ||| y).toNat = x.toNat * 2 ^ n % 256 + y.toNat := by
  have hdisjoint : x <<< n &&& y = 0#8 := by
    refine BitVec.eq_of_getLsbD_eq fun k _ => ?_
    rw [BitVec.getLsbD_and, BitVec.getLsbD_shiftLeft]
    by_cases hk : k < n
    case pos => simp [hk]
    case neg =>
      have hbit : y.getLsbD k = false := Nat.testBit_lt_two_pow (hy.trans_le (Nat.pow_le_pow_right two_pos (not_lt.1 hk)))
      rw [hbit, Bool.and_false, BitVec.getLsbD_zero]
  rw [← BitVec.add_eq_or_of_and_eq_zero _ _ hdisjoint, BitVec.toNat_add_of_and_eq_zero hdisjoint, BitVec.toNat_shiftLeft,
    Nat.shiftLeft_eq]

/-! ### The functions of R234 in numbers -/

/-- The shift's answer is the byte `res` and the bit `out`. -/
structure ShiftOut.Is (o : ShiftOut) (res out : Nat) : Prop where
  res_eq : o.res.toNat = res
  c_eq : o.c = decide (out = 1)

theorem ShiftOut.Is.flags_eq {o : ShiftOut} {res out : Nat} (h : o.Is res out) :
    o.flags = { z := decide (res = 0), n := false, h := false, c := decide (out = 1) } := by
  rw [ShiftOut.flags, beq_zero_eq_decide, h.res_eq, h.c_eq]

theorem ShiftOut.Is.flagsNoZero_eq {o : ShiftOut} {res out : Nat} (h : o.Is res out) :
    o.flagsNoZero = { z := false, n := false, h := false, c := decide (out = 1) } := by
  rw [ShiftOut.flagsNoZero, h.c_eq]

/-- To the left the bit `cin` comes in below. -/
theorem rl_is (v : Byte) (cin : Bool) : (rl v cin).Is (2 * v.toNat % 256 + carryIn cin) (v.toNat / 128) where
  res_eq := by
    have hlt : (b2n cin).toNat < 2 ^ 1 := by rw [toNat_b2n]; exact Nat.lt_succ_of_le (carryIn_le_one cin)
    rw [rl, toNat_shiftLeft_or v hlt, toNat_b2n, pow_one, Nat.mul_comm]
  c_eq := bit_seven_eq_decide v

/-- To the right the bit `cin` comes in above the seven bits that stay. -/
theorem rr_is (v : Byte) (cin : Bool) : (rr v cin).Is (v.toNat / 2 + 128 * carryIn cin) (v.toNat % 2) where
  res_eq := by
    have hhalf : (v >>> 1).toNat = v.toNat / 2 := by rw [BitVec.toNat_ushiftRight, Nat.shiftRight_eq_div_pow, pow_one]
    have hlt : (v >>> 1).toNat < 2 ^ 7 := by omega
    have hcin := carryIn_le_one cin
    rw [rr, BitVec.or_comm, toNat_shiftLeft_or _ hlt, toNat_b2n, hhalf]
    omega
  c_eq := bit_zero_eq_decide v

/-- The circular rotates take in the bit they give out. -/
theorem rlc_is (v : Byte) : (rlc v).Is (2 * v.toNat % 256 + v.toNat / 128) (v.toNat / 128) :=
  carryIn_bit_seven v ▸ rl_is v (bit v 7)

theorem rrc_is (v : Byte) : (rrc v).Is (v.toNat / 2 + 128 * (v.toNat % 2)) (v.toNat % 2) :=
  carryIn_bit_zero v ▸ rr_is v (bit v 0)

/-- The logical shifts take in 0. -/
theorem sla_is (v : Byte) : (sla v).Is (2 * v.toNat % 256) (v.toNat / 128) := by
  have hrl : sla v = rl v false := congrArg (ShiftOut.mk · (bit v 7)) BitVec.or_zero.symm
  exact hrl ▸ rl_is v false

theorem srl_is (v : Byte) : (srl v).Is (v.toNat / 2) (v.toNat % 2) := by
  have hrr : srl v = rr v false := congrArg (ShiftOut.mk · (bit v 0)) BitVec.or_zero.symm
  exact hrr ▸ rr_is v false

/-- The arithmetic shift takes in the sign. -/
theorem sra_is (v : Byte) : (sra v).Is (v.toNat / 2 + 128 * (v.toNat / 128)) (v.toNat % 2) := by
  have hsign : v &&& (0x80 : Byte) = b2n (bit v 7) <<< 7 := by
    refine (BitVec.and_twoPow v 7).trans ?_
    rw [bit]
    cases v.getLsbD 7 <;> rfl
  have hrr : sra v = rr v (bit v 7) := by rw [sra, rr, hsign]
  exact carryIn_bit_seven v ▸ hrr ▸ rr_is v (bit v 7)

theorem swap_is (v : Byte) : (swap v).Is (16 * (v.toNat % 16) + v.toNat / 16) 0 where
  res_eq := by
    have hhigh : (v >>> 4).toNat = v.toNat / 16 := by rw [BitVec.toNat_ushiftRight, Nat.shiftRight_eq_div_pow]
    have hlt : (v >>> 4).toNat < 2 ^ 4 := by omega
    rw [swap, toNat_shiftLeft_or _ hlt, toNat_and_low, hhigh]
    omega
  c_eq := rfl

/-! ### One bit of a byte -/

theorem bitFlags_eq (v : Byte) (b : Fin 8) (f : Flags) :
    bitFlags v b f = { z := decide (v.toNat / 2 ^ b.val % 2 = 0), n := false, h := true, c := f.c } := by
  rw [bitFlags, bit_eq_decide, ← decide_not, decide_eq_decide.2 Nat.mod_two_ne_one]

theorem getLsbD_one_shiftLeft (b : Fin 8) (k : Nat) : ((1 : Byte) <<< b.val).getLsbD k = decide (k = b.val) := by
  have htwoPow : (1 : Byte) <<< b.val = BitVec.twoPow 8 b.val := (BitVec.twoPow_eq 8 b.val).symm
  rw [htwoPow, BitVec.getLsbD_twoPow, decide_eq_true b.isLt, Bool.true_and]
  exact decide_eq_decide.2 eq_comm

theorem getLsbD_resBit (v : Byte) (b : Fin 8) (k : Nat) (hk : k < 8) :
    (resBit v b).getLsbD k = (v.getLsbD k && decide (k ≠ b.val)) := by
  rw [resBit, BitVec.getLsbD_and, BitVec.getLsbD_not, getLsbD_one_shiftLeft, decide_eq_true hk, Bool.true_and, decide_not]

theorem getLsbD_setBit (v : Byte) (b : Fin 8) (k : Nat) :
    (setBit v b).getLsbD k = (v.getLsbD k || decide (k = b.val)) := by
  rw [setBit, BitVec.getLsbD_or, getLsbD_one_shiftLeft]

/-! ### What a rotate, a shift and a bit instruction do

The meaning of every one of them is one of these outcomes, or one of the ALU's, by definition. -/

/-- A shift's answer in the register `r`, with the flags of R234. -/
theorem done_shiftReg (s : State) (r : Reg8) {o : ShiftOut} {res out : Nat} (ho : o.Is res out) (n : Nat) :
    ∃ t, done n ((s.setReg r o.res).setFlags o.flags) = .next t ∧ t.cost = n ∧ (t.reg r).toNat = res ∧
      t.flags = { z := decide (res = 0), n := false, h := false, c := decide (out = 1) } ∧ s.OnlyRegsAndFlags t [r] ∧
      s.KeepsMemory t := by
  obtain ⟨t, hnext, hcost, hreg, hflags, hframe⟩ := done_setReg_setFlags s r o.res o.flags n
  exact ⟨t, hnext, hcost, hreg ▸ ho.res_eq, hflags.trans ho.flags_eq, hframe⟩

/-- A rotate's answer in the accumulator, `Z` cleared. -/
theorem done_rotateA (s : State) {o : ShiftOut} {res out : Nat} (ho : o.Is res out) (n : Nat) :
    ∃ t, done n ((s.setReg .a o.res).setFlags o.flagsNoZero) = .next t ∧ t.cost = n ∧ (t.reg .a).toNat = res ∧
      t.flags = { z := false, n := false, h := false, c := decide (out = 1) } ∧ s.OnlyRegsAndFlags t [.a] ∧
      s.KeepsMemory t := by
  obtain ⟨t, hnext, hcost, hreg, hflags, hframe⟩ := done_setReg_setFlags s .a o.res o.flagsNoZero n
  exact ⟨t, hnext, hcost, hreg ▸ ho.res_eq, hflags.trans ho.flagsNoZero_eq, hframe⟩

/-- A shift's answer stored at the address it was read from, with the flags of R234. -/
theorem done_shiftMem (s : State) (a : Word) {o : ShiftOut} {res out : Nat} (ho : o.Is res out) (n : Nat) :
    ∃ t, done n (((s.afterRead a).writeByte a o.res).setFlags o.flags) = .next t ∧ t.cost = n ∧
      (s.afterRead a).Stores a (BitVec.ofNat 8 res) t ∧
      t.flags = { z := decide (res = 0), n := false, h := false, c := decide (out = 1) } ∧ s.OnlyRegsAndFlags t [] := by
  have hres : o.res = BitVec.ofNat 8 res := by rw [← ho.res_eq, BitVec.ofNat_toNat, BitVec.setWidth_eq]
  obtain ⟨t, hnext, hcost, hstores, hflags, honly⟩ := done_modify_setFlags s a o.res o.flags n
  exact ⟨t, hnext, hcost, hres ▸ hstores, hflags.trans ho.flags_eq, honly⟩

/-- The byte at `a` read and written again, and nothing else. -/
theorem done_modify (s : State) (a : Word) (v : Byte) (n : Nat) :
    ∃ t, done n ((s.afterRead a).writeByte a v) = .next t ∧ t.cost = n ∧ (s.afterRead a).Stores a v t ∧ s.OnlyRegs t [] :=
  ⟨_, rfl, rfl, stores_of (fun _ => peek_setCost ..) rfl, (onlyRegs_read_writeByte s a v []).setCost n⟩

/-! ### The encodings of the extended page -/

/-- The register's code is or'ed into a byte whose low field is clear. -/
theorem byte233_or_code (x : BitVec 2) (y : BitVec 3) (r : Reg8) : byte233 x y 0b000 ||| r.code = byte233 x y r.bits := by
  revert x y
  cases r <;> decide

/-- An extended-page instruction on the register `r`. -/
theorem encodes_extended {i : Instr} {x : BitVec 2} {y : BitVec 3} {r : Reg8} (h : Laws.RoundTrip.Statement i)
    (hw : i.wellFormed = true) (hbytes : encode i = [(0xCB : Byte), byte233 x y 0b000 ||| r.code]) :
    Encodes [0xCB, byte233 x y r.bits] i :=
  encodes_of_roundTrip h hw (byte233_or_code x y r ▸ hbytes)

/-- The bit index is or'ed into a byte whose middle field is clear. -/
theorem byte233_or_idxCode (x : BitVec 2) (z : BitVec 3) (b : Fin 8) :
    byte233 x 0b000 z ||| idxCode b <<< 3 = byte233 x (idxBits b) z := by
  revert x z b
  decide

/-- A bit instruction on the register `r`. -/
theorem encodes_bitOfReg {i : Instr} {x : BitVec 2} {b : Fin 8} {r : Reg8} (h : Laws.RoundTrip.Statement i)
    (hw : i.wellFormed = true) (hbytes : encode i = [(0xCB : Byte), byte233 x 0b000 0b000 ||| idxCode b <<< 3 ||| r.code]) :
    Encodes [0xCB, byte233 x (idxBits b) r.bits] i :=
  encodes_extended h hw (byte233_or_idxCode x 0b000 b ▸ hbytes)

/-- A bit instruction on the byte at `HL`, whose selector is `110`. -/
theorem encodes_bitOfHl {i : Instr} {x : BitVec 2} {b : Fin 8} (h : Laws.RoundTrip.Statement i) (hw : i.wellFormed = true)
    (hbytes : encode i = [(0xCB : Byte), byte233 x 0b000 0b110 ||| idxCode b <<< 3]) :
    Encodes [0xCB, byte233 x (idxBits b) 0b110] i :=
  encodes_of_roundTrip h hw (byte233_or_idxCode x 0b110 b ▸ hbytes)

/-! ### The obligations -/

/-- Settles O46: each form puts its function's answer in its register. -/
theorem shiftRegister : Obligations.ShiftRegister := by
  intro s r v c shift
  exact ⟨⟨encodes_extended (Laws.RoundTrip.rlcR r) rfl rfl, done_shiftReg s r (rlc_is (s.reg r)) 2⟩,
    ⟨encodes_extended (Laws.RoundTrip.rrcR r) rfl rfl, done_shiftReg s r (rrc_is (s.reg r)) 2⟩,
    ⟨encodes_extended (Laws.RoundTrip.rlR r) rfl rfl, done_shiftReg s r (rl_is (s.reg r) s.flags.c) 2⟩,
    ⟨encodes_extended (Laws.RoundTrip.rrR r) rfl rfl, done_shiftReg s r (rr_is (s.reg r) s.flags.c) 2⟩,
    ⟨encodes_extended (Laws.RoundTrip.slaR r) rfl rfl, done_shiftReg s r (sla_is (s.reg r)) 2⟩,
    ⟨encodes_extended (Laws.RoundTrip.sraR r) rfl rfl, done_shiftReg s r (sra_is (s.reg r)) 2⟩,
    ⟨encodes_extended (Laws.RoundTrip.swapR r) rfl rfl, done_shiftReg s r (swap_is (s.reg r)) 2⟩,
    ⟨encodes_extended (Laws.RoundTrip.srlR r) rfl rfl, done_shiftReg s r (srl_is (s.reg r)) 2⟩⟩

/-- Settles O47: each form stores its function's answer where it read the operand. -/
theorem shiftMemory : Obligations.ShiftMemory := by
  intro s v c shift
  exact ⟨⟨Laws.RoundTrip.rlcHl rfl, done_shiftMem s s.hl (rlc_is (s.peek s.hl)) 4⟩,
    ⟨Laws.RoundTrip.rrcHl rfl, done_shiftMem s s.hl (rrc_is (s.peek s.hl)) 4⟩,
    ⟨Laws.RoundTrip.rlHl rfl, done_shiftMem s s.hl (rl_is (s.peek s.hl) s.flags.c) 4⟩,
    ⟨Laws.RoundTrip.rrHl rfl, done_shiftMem s s.hl (rr_is (s.peek s.hl) s.flags.c) 4⟩,
    ⟨Laws.RoundTrip.slaHl rfl, done_shiftMem s s.hl (sla_is (s.peek s.hl)) 4⟩,
    ⟨Laws.RoundTrip.sraHl rfl, done_shiftMem s s.hl (sra_is (s.peek s.hl)) 4⟩,
    ⟨Laws.RoundTrip.swapHl rfl, done_shiftMem s s.hl (swap_is (s.peek s.hl)) 4⟩,
    ⟨Laws.RoundTrip.srlHl rfl, done_shiftMem s s.hl (srl_is (s.peek s.hl)) 4⟩⟩

/-- Settles O48: `BIT` writes flags alone, `RES` and `SET` a byte with one bit changed and no flag. -/
theorem bitInstructions : Obligations.BitInstructions := by
  intro s b r m testFlags cleared set
  refine ⟨⟨encodes_bitOfReg (Laws.RoundTrip.bitBR b r) rfl rfl, ?bitR⟩,
    ⟨encodes_bitOfHl (Laws.RoundTrip.bitBHl b) rfl rfl, ?bitHl⟩,
    ⟨encodes_bitOfReg (Laws.RoundTrip.resBR b r) rfl rfl, ?resR⟩,
    ⟨encodes_bitOfHl (Laws.RoundTrip.resBHl b) rfl rfl, ?resHl⟩,
    ⟨encodes_bitOfReg (Laws.RoundTrip.setBR b r) rfl rfl, ?setR⟩,
    encodes_bitOfHl (Laws.RoundTrip.setBHl b) rfl rfl, ?setHl⟩
  case bitR =>
    obtain ⟨t, hnext, hcost, ⟨hflags, honly⟩, hmem⟩ := done_setFlags s (bitFlags_eq (s.reg r) b s.flags) 2
    exact ⟨t, hnext, hcost, hflags, honly, hmem⟩
  case bitHl =>
    obtain ⟨t, hnext, hcost, ⟨hflags, honly⟩, hmem⟩ := done_read_setFlags s s.hl (bitFlags_eq m b s.flags) 3
    exact ⟨t, hnext, hcost, hflags, honly, hmem⟩
  case resR =>
    obtain ⟨t, hnext, hcost, hreg, hframe⟩ := done_setReg s r (resBit (s.reg r) b) 2
    exact ⟨t, hnext, hcost, hreg ▸ getLsbD_resBit (s.reg r) b, hframe⟩
  case resHl =>
    obtain ⟨t, hnext, hcost, hframe⟩ := done_modify s s.hl (resBit m b) 4
    exact ⟨t, resBit m b, hnext, hcost, getLsbD_resBit m b, hframe⟩
  case setR =>
    obtain ⟨t, hnext, hcost, hreg, hframe⟩ := done_setReg s r (setBit (s.reg r) b) 2
    exact ⟨t, hnext, hcost, hreg ▸ fun k _ => getLsbD_setBit (s.reg r) b k, hframe⟩
  case setHl =>
    obtain ⟨t, hnext, hcost, hframe⟩ := done_modify s s.hl (setBit m b) 4
    exact ⟨t, setBit m b, hnext, hcost, fun k _ => getLsbD_setBit m b k, hframe⟩

/-- Settles O45: each form puts its rotate's answer in the accumulator. -/
theorem accumulatorRotates : Obligations.AccumulatorRotates := by
  intro s A c rotate
  exact ⟨⟨Laws.RoundTrip.rlca rfl, done_rotateA s (rlc_is (s.reg .a)) 1⟩,
    ⟨Laws.RoundTrip.rla rfl, done_rotateA s (rl_is (s.reg .a) s.flags.c) 1⟩,
    ⟨Laws.RoundTrip.rrca rfl, done_rotateA s (rrc_is (s.reg .a)) 1⟩,
    ⟨Laws.RoundTrip.rra rfl, done_rotateA s (rr_is (s.reg .a) s.flags.c) 1⟩⟩

end Sys2Proof.Machine
end

section
/-! PROOFS. The control transfers (spec 45_control.md R270 to R281). -/

namespace Sys2Proof.Machine

/-! ### Conditions (R270) -/

theorem Flags.cond_iff (f : Flags) (cc : Cond) :
    f.cond cc = true ↔
      match cc with | .nz => f.z = false | .z => f.z = true | .nc => f.c = false | .c => f.c = true := by
  cases cc
  case nz | nc => exact iff_of_eq (Bool.not_eq_true' _)
  case z | c => exact Iff.rfl

/-- A conditional instruction has one outcome of two, and with `taken` it is the first. -/
theorem exists_next_ite {c taken : Prop} [Decidable c] {r r' : Result} {P Q : State → Prop} (hc : c ↔ taken)
    (hP : ∃ t, r = .next t ∧ P t) (hQ : ∃ t, r' = .next t ∧ Q t) :
    ∃ t, (if c then r else r') = .next t ∧ (taken → P t) ∧ (¬taken → Q t) := by
  by_cases h : c
  · obtain ⟨t, hnext, ht⟩ := hP
    exact ⟨t, (if_pos h).trans hnext, fun _ => ht, fun hn => absurd (hc.1 h) hn⟩
  · obtain ⟨t, hnext, ht⟩ := hQ
    exact ⟨t, (if_neg h).trans hnext, fun htaken => absurd (hc.2 htaken) h, fun _ => ht⟩

/-! ### What a transfer does

The meaning of every control transfer is one of these outcomes by definition, or two of them under its condition. -/

/-- The condition does not hold: the instruction has a cost and no other effect. -/
theorem done_untaken (s : State) (n : Nat) :
    ∃ t, done n s = .next t ∧ t.cost = n ∧ s.OnlyRegs t [] ∧ s.KeepsMemory t :=
  ⟨_, rfl, rfl, (onlyRegs_refl s []).setCost n, rfl, fun _ => peek_setCost ..⟩

/-- `PC` is set and nothing else. -/
theorem done_setPc (s : State) {a a' : Word} (ha : a = a') (n : Nat) :
    ∃ t, done n (s.setPc a) = .next t ∧ t.cost = n ∧ t.regs.pc = a' ∧ (∀ r, t.reg r = s.reg r) ∧ t.flags = s.flags ∧
      t.regs.sp = s.regs.sp ∧ s.KeepsControl t ∧ s.KeepsHidden t ∧ s.KeepsMemory t :=
  ⟨_, rfl, rfl, ha, fun _ => rfl, rfl, rfl, ⟨rfl, rfl, rfl⟩, ((Evolves.refl.setPc a).cost n).keepsHidden, rfl,
    fun _ => by simp⟩

/-- `PC` is pushed, the low byte and then the high byte, and set to the target. -/
theorem done_call (s : State) (a : Word) (n : Nat) :
    ∃ t, done n ((s.push16 s.regs.pc).setPc a) = .next t ∧ t.cost = n ∧ t.regs.pc = a ∧ t.regs.sp = s.regs.sp - 2 ∧
      ((s.writeByte (s.regs.sp - 2) (s.regs.pc.setWidth 8)).Stores (s.regs.sp - 1) ((s.regs.pc >>> 8).setWidth 8) t) ∧
      s.Stores (s.regs.sp - 2) (s.regs.pc.setWidth 8) (s.writeByte (s.regs.sp - 2) (s.regs.pc.setWidth 8)) ∧
      (∀ r, t.reg r = s.reg r) ∧ t.flags = s.flags ∧ s.KeepsControl t ∧ s.KeepsHidden t := by
  obtain ⟨hreg, hflags, hsp, -⟩ := keepsRegs_but_sp (push16_regs s s.regs.pc)
  rw [← lo_eq, ← hi_eq]
  exact ⟨_, rfl, rfl, rfl, hsp, stores_of_push16 (fun _ => by simp) rfl, stores_writeByte s _ _, hreg, hflags,
    keepsControl_push16 s _, (((Evolves.refl.push16 _).setPc a).cost n).keepsHidden⟩

/-- The word at `SP` is popped into `PC` and `IME` is set to `ime`. -/
theorem done_return (s : State) (ime : Bool) (n : Nat) :
    ∃ t, done n ((s.pop16.2.setPc s.pop16.1).setIme ime) = .next t ∧ t.cost = n ∧
      t.regs.pc = BitVec.ofNat 16 (256 * (s.peek (s.regs.sp + 1)).toNat + (s.peek s.regs.sp).toNat) ∧
      t.regs.sp = s.regs.sp + 2 ∧ t.ime = ime ∧ t.halted = s.halted ∧ t.diags = s.diags ∧ (∀ r, t.reg r = s.reg r) ∧
      t.flags = s.flags ∧ s.KeepsHidden t ∧
      t.boot = (s.boot && decide (s.regs.sp ≠ 0x0100 ∧ s.regs.sp + 1 ≠ 0x0100)) ∧
      ∀ b, ¬((s.regs.sp = 0x0100 ∨ s.regs.sp + 1 = 0x0100) ∧ s.boot = true ∧ b.toNat < 0x100) → t.peek b = s.peek b := by
  obtain ⟨hreg, hflags, hsp, -⟩ := keepsRegs_but_sp (pop16_regs s)
  obtain ⟨-, hhalted, hdiags⟩ := keepsControl_pop16 s
  refine ⟨_, rfl, rfl, (pop16_fst s).trans (word_eq _ _), hsp, rfl, hhalted, hdiags, hreg, hflags,
    (((Evolves.refl.pop16.setPc _).setIme ime).cost n).keepsHidden, pop16_boot s, fun b hb => ?peek⟩
  rw [peek_setCost, peek_setIme, peek_setPc, peek_pop16 s hb]

/-- A return that leaves `IME` alone is one that sets it to what it is. -/
theorem setPc_pop16_eq_setIme (s : State) : s.pop16.2.setPc s.pop16.1 = (s.pop16.2.setPc s.pop16.1).setIme s.ime := by
  obtain ⟨hime, -, -⟩ := keepsControl_pop16 s
  rw [← hime]
  rfl

theorem add_sext16 (w : Word) (e : Byte) : w + sext16 e = BitVec.ofInt 16 (w.toNat + e.toInt) := addSp16_res w e

/-! ### The encodings with an address, a condition or a restart index in them -/

theorem encodes_jpNn (nn : Word) : Encodes [0b11000011, nn.setWidth 8, (nn >>> 8).setWidth 8] (.jpNn nn) :=
  encodes_of_roundTrip (Laws.RoundTrip.jpNn nn) rfl (by rw [← lo_eq, ← hi_eq]; rfl)

theorem encodes_jpCcNn (cc : Cond) (nn : Word) :
    Encodes [byte323 0b110 cc.bits 0b010, nn.setWidth 8, (nn >>> 8).setWidth 8] (.jpCcNn cc nn) :=
  encodes_of_roundTrip (Laws.RoundTrip.jpCcNn cc nn) rfl (by rw [← lo_eq, ← hi_eq]; cases cc <;> rfl)

theorem encodes_jrCcE (cc : Cond) (e : Byte) : Encodes [byte323 0b001 cc.bits 0b000, e] (.jrCcE cc e) :=
  encodes_of_roundTrip (Laws.RoundTrip.jrCcE cc e) rfl (by cases cc <;> rfl)

theorem encodes_callNn (nn : Word) : Encodes [0b11001101, nn.setWidth 8, (nn >>> 8).setWidth 8] (.callNn nn) :=
  encodes_of_roundTrip (Laws.RoundTrip.callNn nn) rfl (by rw [← lo_eq, ← hi_eq]; rfl)

theorem encodes_callCcNn (cc : Cond) (nn : Word) :
    Encodes [byte323 0b110 cc.bits 0b100, nn.setWidth 8, (nn >>> 8).setWidth 8] (.callCcNn cc nn) :=
  encodes_of_roundTrip (Laws.RoundTrip.callCcNn cc nn) rfl (by rw [← lo_eq, ← hi_eq]; cases cc <;> rfl)

theorem encodes_retCc (cc : Cond) : Encodes [byte323 0b110 cc.bits 0b000] (.retCc cc) :=
  encodes_of_roundTrip (Laws.RoundTrip.retCc cc) rfl (by cases cc <;> rfl)

theorem encodes_rst (k : Fin 8) : Encodes [byte233 0b11 (idxBits k) 0b111] (.rst k) :=
  encodes_of_roundTrip (Laws.RoundTrip.rst k) rfl (congrArg (fun b => [b]) (byte233_or_idxCode 0b11 0b111 k))

/-! ### The obligations -/

/-- Settles O50: each call pushes `PC` and sets it to its target, or, its condition failing, does nothing. -/
theorem callInstructions : Obligations.CallInstructions := by
  intro s cc nn k taken call
  exact ⟨⟨encodes_callNn nn, done_call s nn 6⟩,
    ⟨encodes_callCcNn cc nn, exists_next_ite (Flags.cond_iff s.flags cc) (done_call s nn 6) (done_untaken s 3)⟩,
    encodes_rst k, done_call s (restartVector k) 4⟩

/-- Settles O51: each return is a pop into `PC`; `RET` and `RET cc` leave `IME` as it is and `RETI` sets it. -/
theorem returnInstructions : Obligations.ReturnInstructions := by
  intro s cc taken back
  have hret : ∀ n, ∃ t, done n (s.pop16.2.setPc s.pop16.1) = .next t ∧ t.cost = n ∧ back t s.ime := fun n => by
    rw [setPc_pop16_eq_setIme]
    exact done_return s s.ime n
  exact ⟨⟨Laws.RoundTrip.ret rfl, hret 4⟩,
    ⟨encodes_retCc cc, exists_next_ite (Flags.cond_iff s.flags cc) (hret 5) (done_untaken s 2)⟩,
    Laws.RoundTrip.reti rfl, done_return s true 4⟩

/-- Settles O49: each jump sets `PC` to its target, or, its condition failing, to what it is. -/
theorem jumpInstructions : Obligations.JumpInstructions := by
  intro s cc nn e taken target goes
  have htarget : s.regs.pc + sext16 e = target := add_sext16 _ e
  have hcond := Flags.cond_iff s.flags cc
  exact ⟨⟨encodes_jpNn nn, done_setPc s rfl 4⟩,
    ⟨encodes_jpCcNn cc nn, exists_next_ite hcond (done_setPc s rfl 4) (done_setPc s rfl 3)⟩,
    ⟨Laws.RoundTrip.jpHl rfl, done_setPc s rfl 1⟩,
    ⟨Laws.RoundTrip.jrE e rfl, done_setPc s htarget 3⟩,
    encodes_jrCcE cc e, exists_next_ite hcond (done_setPc s htarget 3) (done_setPc s rfl 2)⟩

end Sys2Proof.Machine
end

section
/-! PROOFS. `NOP`, `HALT`, `STOP`, `DI` and `EI` (spec 46_system.md R290 to R294). -/

namespace Sys2Proof.Machine

/-- `IME` and `halted` are set and nothing else; a latch that is set to what it is stays as it is. -/
theorem done_setLatches (s : State) (ime halted : Bool) (n : Nat) :
    ∃ t, done n ((s.setIme ime).setHalted halted) = .next t ∧ t.cost = n ∧ t.ime = ime ∧ t.halted = halted ∧
      t.diags = s.diags ∧ s.KeepsRegs t ∧ s.KeepsHidden t ∧ s.KeepsMemory t :=
  ⟨_, rfl, rfl, rfl, rfl, rfl, ⟨fun _ => rfl, rfl, rfl, rfl⟩,
    (((Evolves.refl.setIme ime).setHalted halted).cost n).keepsHidden, rfl, fun _ => by simp⟩

/-- Settles O52: each of the five sets the two latches, the ones its rule does not name to what they are. -/
theorem systemInstructions : Obligations.SystemInstructions := by
  intro s latches
  exact ⟨⟨Laws.RoundTrip.nop rfl, done_setLatches s s.ime s.halted 1⟩,
    ⟨Laws.RoundTrip.halt rfl, done_setLatches s s.ime true 1⟩,
    ⟨Laws.RoundTrip.stop rfl, done_setLatches s s.ime s.halted 1⟩,
    ⟨Laws.RoundTrip.di rfl, done_setLatches s false s.halted 1⟩,
    Laws.RoundTrip.ei rfl, done_setLatches s true s.halted 1⟩

end Sys2Proof.Machine
end

section
/-! PROOFS. The picture generator (spec 60_exceptions.md R340 to R350). -/

namespace Sys2Proof.Machine

variable (s : State)

/-! ### The interrupts of a transition -/

/-- What a raise of the LCD status interrupt under a condition adds to `IF` (R301). -/
def lcdStatusIf (p : Prop) [Decidable p] : Byte := if p then 0x02 else 0x00

theorem raiseIf_lcdStatus (b : Bool) : s.raiseIf b .lcdStatus = { s with iflag := s.iflag ||| lcdStatusIf b } := by
  cases b
  case false => exact congrArg s.setIf (BitVec.or_zero (x := s.iflag)).symm
  case true => rfl

/-- The line compare looks at `LY` and `LYC` alone, not at `STAT[6]` (R350, D30). -/
theorem lycCheck_eq : s.lycCheck = { s with iflag := s.iflag ||| lcdStatusIf (s.ppu.ly = s.ppu.lyc) } := by
  simp only [State.lycCheck, Config.lycRequiresStat6, Bool.not_false, Bool.true_or, Bool.and_true, raiseIf_lcdStatus,
    beq_iff_eq]

/-! ### The transitions -/

/-- The picture generator at the start of a period, all else but `IF` as before: the mode, the line, the pixel buffer, and `IF`
before the line compare, which is the last act of every transition (R350). -/
def State.entered (m : PpuMode) (ly : Byte) (pix : PixelBuffer) (f : Byte) : State :=
  { s with
    ppu := { s.ppu with mode := m, ly := ly, pcnt := 0, pix := pix }
    iflag := f ||| lcdStatusIf (ly = s.ppu.lyc) }

theorem leaveOamScan_eq : s.leaveOamScan = s.entered .pixelTransfer s.ppu.ly s.ppu.pix s.iflag := lycCheck_eq _

theorem leavePixelTransfer_eq :
    s.leavePixelTransfer =
      s.entered .hblank s.ppu.ly (s.ppu.pix.setRow s.ppu.ly.toNat (s.lineOf s.ppu.ly.toNat))
        (s.iflag ||| lcdStatusIf (s.ppu.stat.getLsbD 0)) := by
  simp only [State.leavePixelTransfer, raiseIf_lcdStatus, lycCheck_eq]
  rfl

theorem add_one_eq_144_iff (v : Byte) : v + 1 = 144 ↔ v = 143 := by bv_omega

theorem leaveHblank_of_last (h : s.ppu.ly = 143) :
    s.leaveHblank =
      s.entered .vblank (s.ppu.ly + 1) s.ppu.pix (s.iflag ||| 0x01 ||| lcdStatusIf (s.ppu.stat.getLsbD 1)) := by
  have next : ((s.setPcnt 0).setLy (s.ppu.ly + 1)).ppu.ly = 144 := (add_one_eq_144_iff _).2 h
  simp only [State.leaveHblank, if_pos next, raiseIf_lcdStatus, lycCheck_eq]
  rfl

theorem leaveHblank_of_not_last (h : s.ppu.ly ≠ 143) :
    s.leaveHblank =
      s.entered .oamScan (s.ppu.ly + 1) s.ppu.pix (s.iflag ||| lcdStatusIf (s.ppu.stat.getLsbD 2)) := by
  have next : ((s.setPcnt 0).setLy (s.ppu.ly + 1)).ppu.ly ≠ 144 := mt (add_one_eq_144_iff _).1 h
  simp only [State.leaveHblank, if_neg next, raiseIf_lcdStatus, lycCheck_eq]
  rfl

theorem add_one_gt_153_iff {v : Byte} (h : v.toNat ≤ 153) : v + 1 > 153 ↔ v = 153 := by bv_omega

theorem leaveVblankLine_of_last (h : s.ppu.ly = 153) :
    s.leaveVblankLine = s.entered .oamScan 0 s.ppu.pix (s.iflag ||| lcdStatusIf (s.ppu.stat.getLsbD 2)) := by
  have next : ((s.setPcnt 0).setLy (s.ppu.ly + 1)).ppu.ly > 153 := (add_one_gt_153_iff (by rw [h]; decide)).2 h
  simp only [State.leaveVblankLine, if_pos next, raiseIf_lcdStatus, lycCheck_eq]
  rfl

theorem leaveVblankLine_of_not_last (hle : s.ppu.ly.toNat ≤ 153) (h : s.ppu.ly ≠ 153) :
    s.leaveVblankLine = s.entered s.ppu.mode (s.ppu.ly + 1) s.ppu.pix s.iflag := by
  have next : ¬((s.setPcnt 0).setLy (s.ppu.ly + 1)).ppu.ly > 153 := mt (add_one_gt_153_iff hle).1 h
  simp only [State.leaveVblankLine, if_neg next, lycCheck_eq]
  rfl

/-! ### One advance (R341) -/

theorem ppuTransition_oamScan (h : s.ppu.mode = .oamScan) : s.ppuTransition = s.leaveOamScan := by
  rw [State.ppuTransition, h]

theorem ppuTransition_pixelTransfer (h : s.ppu.mode = .pixelTransfer) : s.ppuTransition = s.leavePixelTransfer := by
  rw [State.ppuTransition, h]

theorem ppuTransition_hblank (h : s.ppu.mode = .hblank) : s.ppuTransition = s.leaveHblank := by
  rw [State.ppuTransition, h]

theorem ppuTransition_vblank (h : s.ppu.mode = .vblank) : s.ppuTransition = s.leaveVblankLine := by
  rw [State.ppuTransition, h]

/-- A transition sets `pcnt` to 0 whatever it is. -/
theorem ppuTransition_setPcnt (n : Nat) : (s.setPcnt n).ppuTransition = s.ppuTransition := by
  cases h : s.ppu.mode
  case oamScan => rw [ppuTransition_oamScan _ h, ppuTransition_oamScan (s.setPcnt n) h]; rfl
  case pixelTransfer => rw [ppuTransition_pixelTransfer _ h, ppuTransition_pixelTransfer (s.setPcnt n) h]; rfl
  case hblank => rw [ppuTransition_hblank _ h, ppuTransition_hblank (s.setPcnt n) h]; rfl
  case vblank => rw [ppuTransition_vblank _ h, ppuTransition_vblank (s.setPcnt n) h]; rfl

theorem ppuAdvance_of_lt {c : Nat} (h : s.ppu.pcnt + c < s.ppu.mode.units) : s.ppuAdvance c = s.setPcnt (s.ppu.pcnt + c) :=
  if_neg (Nat.not_le_of_lt h)

/-- What exceeds the threshold is dropped: the transition does not look at `pcnt`. -/
theorem ppuAdvance_of_ge {c : Nat} (h : s.ppu.pcnt + c ≥ s.ppu.mode.units) : s.ppuAdvance c = s.ppuTransition :=
  (if_pos h).trans (ppuTransition_setPcnt s _)

/-- Settles O55: below the threshold only `pcnt` moves, and at it the period of the next mode is entered. -/
theorem pictureTransitions : Obligations.PictureTransitions := by
  intro s c ⟨_, hly, _, _⟩ t lyc source limit
  have hlimit : limit = s.ppu.mode.units := by cases hm : s.ppu.mode <;> simp only [limit, hm] <;> rfl
  refine ⟨fun hlt => ppuAdvance_of_lt s (hlimit ▸ hlt), fun hge => ?_⟩
  have ht : t = s.ppuTransition := ppuAdvance_of_ge s (hlimit ▸ hge)
  clear_value t
  cases hm : s.ppu.mode
  case oamScan =>
    obtain rfl := ht.trans ((ppuTransition_oamScan s hm).trans (leaveOamScan_eq s))
    exact ⟨rfl, rfl, rfl, rfl, rfl, rfl⟩
  case pixelTransfer =>
    obtain rfl := ht.trans ((ppuTransition_pixelTransfer s hm).trans (leavePixelTransfer_eq s))
    exact ⟨rfl, rfl, rfl, rfl, rfl, rfl⟩
  case hblank =>
    have ht := ht.trans (ppuTransition_hblank s hm)
    by_cases hlast : s.ppu.ly = 143
    · obtain rfl := ht.trans (leaveHblank_of_last s hlast)
      exact ⟨rfl, rfl, rfl, rfl, (if_pos hlast).mpr ⟨rfl, rfl⟩⟩
    · obtain rfl := ht.trans (leaveHblank_of_not_last s hlast)
      exact ⟨rfl, rfl, rfl, rfl, (if_neg hlast).mpr ⟨rfl, rfl⟩⟩
  case vblank =>
    have ht := ht.trans (ppuTransition_vblank s hm)
    by_cases hlast : s.ppu.ly = 153
    · obtain rfl := ht.trans (leaveVblankLine_of_last s hlast)
      exact ⟨rfl, rfl, rfl, (if_pos hlast).mpr ⟨rfl, rfl, rfl⟩⟩
    · obtain rfl := ht.trans (leaveVblankLine_of_not_last s hly hlast)
      exact ⟨rfl, rfl, rfl, (if_neg hlast).mpr ⟨rfl, hm, rfl⟩⟩

/-! ### Lines and frames (R347) -/

/-- The start of a period on line `y`. -/
abbrev State.AtStart (m : PpuMode) (y : Nat) : Prop := s.ppu.mode = m ∧ s.ppu.ly.toNat = y ∧ s.ppu.pcnt = 0

variable {s} {m : PpuMode} {y : Nat}

theorem leaveOamScan_atStart (h : s.AtStart m y) : s.leaveOamScan.AtStart .pixelTransfer y := by
  obtain ⟨-, hly, -⟩ := h
  rw [leaveOamScan_eq]
  exact ⟨rfl, hly, rfl⟩

theorem leavePixelTransfer_atStart (h : s.AtStart m y) : s.leavePixelTransfer.AtStart .hblank y := by
  obtain ⟨-, hly, -⟩ := h
  rw [leavePixelTransfer_eq]
  exact ⟨rfl, hly, rfl⟩

theorem leaveHblank_atStart (h : s.AtStart m y) (hy : y < 143) : s.leaveHblank.AtStart .oamScan (y + 1) := by
  obtain ⟨-, hly, -⟩ := h
  rw [leaveHblank_of_not_last s (by bv_omega)]
  exact ⟨rfl, show (s.ppu.ly + 1).toNat = y + 1 by bv_omega, rfl⟩

theorem leaveHblank_atStart_vblank (h : s.AtStart m 143) :
    s.leaveHblank.AtStart .vblank 144 ∧ s.leaveHblank.iflag.getLsbD 0 = true := by
  obtain ⟨-, hly, -⟩ := h
  rw [leaveHblank_of_last s (by bv_omega)]
  exact ⟨⟨rfl, show (s.ppu.ly + 1).toNat = 144 by bv_omega, rfl⟩, by simp [State.entered]⟩

theorem iterate_ppuAdvance_of_lt {n : Nat} (h : s.ppu.pcnt + n < s.ppu.mode.units) :
    (State.ppuAdvance 1)^[n] s = s.setPcnt (s.ppu.pcnt + n) := by
  induction n with
  | zero => rfl
  | succ n ih =>
    rw [Function.iterate_succ_apply', ih (by omega)]
    exact ppuAdvance_of_lt _ h

/-- A whole period in units of one ends in the transition out of its mode. -/
theorem iterate_ppuAdvance_period (h : s.AtStart m y) : (State.ppuAdvance 1)^[m.units] s = s.ppuTransition := by
  obtain ⟨hm, -, hpcnt⟩ := h
  obtain ⟨k, hk⟩ := Nat.exists_eq_succ_of_ne_zero m.units_pos.ne'
  rw [hk, Function.iterate_succ_apply', iterate_ppuAdvance_of_lt (by rw [hm]; omega)]
  have hge : (s.setPcnt (s.ppu.pcnt + k)).ppu.pcnt + 1 ≥ (s.setPcnt (s.ppu.pcnt + k)).ppu.mode.units := by
    show s.ppu.pcnt + k + 1 ≥ s.ppu.mode.units
    rw [hm]; omega
  rw [ppuAdvance_of_ge _ hge, ppuTransition_setPcnt]

/-- The 114 units of a visible line go through its three modes and end in the transition out of `HBLANK`. -/
theorem iterate_ppuAdvance_line (h : s.AtStart .oamScan y) :
    (State.ppuAdvance 1)^[20 + 43 + 51] s = s.leaveOamScan.leavePixelTransfer.leaveHblank := by
  have h1 := leaveOamScan_atStart h
  have h2 := leavePixelTransfer_atStart h1
  show (State.ppuAdvance 1)^[PpuMode.hblank.units + (PpuMode.pixelTransfer.units + PpuMode.oamScan.units)] s = _
  rw [Function.iterate_add_apply, Function.iterate_add_apply, iterate_ppuAdvance_period h, ppuTransition_oamScan _ h.1,
    iterate_ppuAdvance_period h1, ppuTransition_pixelTransfer _ h1.1, iterate_ppuAdvance_period h2,
    ppuTransition_hblank _ h2.1]

theorem iterate_ppuAdvance_lines (h : s.AtStart .oamScan 0) {k : Nat} (hk : k < 144) :
    ((State.ppuAdvance 1)^[(20 + 43 + 51) * k] s).AtStart .oamScan k := by
  induction k with
  | zero => exact h
  | succ k ih =>
    have hline := ih (by omega)
    rw [Nat.mul_succ, Nat.add_comm, Function.iterate_add_apply, iterate_ppuAdvance_line hline]
    exact leaveHblank_atStart (leavePixelTransfer_atStart (leaveOamScan_atStart hline)) (by omega)

/-- The last visible line ends in `VBLANK`. -/
theorem iterate_ppuAdvance_frame (h : s.AtStart .oamScan 0) {t : State}
    (ht : t = (State.ppuAdvance 1)^[(20 + 43 + 51) * (143 + 1)] s) : t.AtStart .vblank 144 ∧ t.iflag.getLsbD 0 = true := by
  have hline := iterate_ppuAdvance_lines h (k := 143) (by decide)
  rw [Nat.mul_succ, Nat.add_comm, Function.iterate_add_apply, iterate_ppuAdvance_line hline] at ht
  rw [ht]
  exact leaveHblank_atStart_vblank (leavePixelTransfer_atStart (leaveOamScan_atStart hline))

/-- Settles O56: line by line to the last visible one, and out of that one into `VBLANK`. -/
theorem pictureFrame : Obligations.PictureFrame := by
  intro s hm hly hpcnt
  have h : s.AtStart .oamScan 0 := ⟨hm, congrArg BitVec.toNat hly, hpcnt⟩
  refine ⟨fun k hk => iterate_ppuAdvance_lines h hk, ?_⟩
  rintro k rfl t
  obtain ⟨⟨hmode, hlast, hpcnt⟩, hvblank⟩ := iterate_ppuAdvance_frame h (t := t) rfl
  exact ⟨hmode, BitVec.eq_of_toNat_eq hlast, hpcnt, hvblank⟩

end Sys2Proof.Machine
end

section
/-! PROOFS. The fetch and what it runs (spec 30_encoding.md R100, R101, R118; 60_exceptions.md R300, R375). -/

namespace Sys2Proof.Machine

/-! ### The length of what is decoded (R100, R101) -/

theorem length_decodeExtended (o : Byte) : (decodeExtended o).length = 2 := by
  fun_cases decodeExtended o <;> rfl

theorem length_decodeX0 (o n h : Byte) : (decodeX0 o n h).length = (decodeX0 o 0 0).length := by
  fun_cases decodeX0 o n h <;> simp_all [decodeX0] <;> rfl

theorem length_decodeX3 (o n h : Byte) : (decodeX3 o n h).length = (decodeX3 o 0 0).length := by
  fun_cases decodeX3 o n h <;> simp_all [decodeX3, length_decodeExtended] <;> rfl

/-- The operand bytes do not bear on the length. -/
theorem length_decodeOp (o n h : Byte) : (decodeOp o n h).length = opLength o := by
  unfold opLength decodeOp
  split
  · exact length_decodeX0 o n h
  · rfl
  · rfl
  · exact length_decodeX3 o n h

/-- The state with `PC` past `n` bytes that were read there, and `boot` clear if 0x0100 was among them (R26, R74). -/
def State.pastBytes (s : State) (n : Nat) : State :=
  { s with
    regs := { s.regs with pc := s.regs.pc + BitVec.ofNat 16 n }
    boot := s.boot && !(List.range n).any fun k => s.regs.pc + BitVec.ofNat 16 k == 0x0100 }

variable (s : State)

theorem pastBytes_zero : s.pastBytes 0 = s := by
  simp [State.pastBytes]

theorem peek_pastBytes {n : Nat} (hn : n ≤ 2) :
    (s.pastBytes n).peek (s.regs.pc + BitVec.ofNat 16 n) = s.peek (s.regs.pc + BitVec.ofNat 16 n) := by
  refine peek_congr (fun hb => ?_) rfl rfl (fun _ => rfl) (fun _ => rfl) (fun _ => rfl)
  have hnone : ((List.range n).any fun k => s.regs.pc + BitVec.ofNat 16 k == 0x0100) = false := by
    rw [List.any_eq_false]
    intro k hk
    have := List.mem_range.1 hk
    rw [beq_iff_eq]
    bv_omega
  show (s.boot && !_) = s.boot
  rw [hnone, Bool.not_false, Bool.and_true]

theorem afterRead_eq (a : Word) : s.afterRead a = { s with boot := s.boot && !(a == 0x0100) } := by
  by_cases h : a = 0x0100
  · rw [State.afterRead, if_pos h, beq_iff_eq.2 h, Bool.not_true, Bool.and_false]
  · rw [afterRead_ne s h, beq_false_of_ne h, Bool.not_false, Bool.and_true]

theorem fetch8_pastBytes {n : Nat} (hn : n ≤ 2) :
    (s.pastBytes n).fetch8 = (s.peek (s.regs.pc + BitVec.ofNat 16 n), s.pastBytes (n + 1)) := by
  have hpc : s.regs.pc + BitVec.ofNat 16 n + 1 = s.regs.pc + BitVec.ofNat 16 (n + 1) := by bv_omega
  refine Prod.ext (peek_pastBytes s hn) ?_
  show ((s.pastBytes n).afterRead (s.regs.pc + BitVec.ofNat 16 n)).setPc (s.regs.pc + BitVec.ofNat 16 n + 1) = _
  rw [afterRead_eq, hpc]
  simp [State.pastBytes, State.setPc, List.range_succ, Bool.and_assoc]

/-- How many of three bytes the decoder looks at is what the first announces (R101). -/
theorem decode_eq_ok {o n h : Byte} {i : Instr} {rest : List Byte} (hd : decode [o, n, h] = .ok (i, rest)) :
    (opLength o = 1 ∧ i = decodeOp o 0 0) ∨ (opLength o = 2 ∧ i = decodeOp o n 0) ∨ (opLength o = 3 ∧ i = decodeOp o n h) := by
  simp only [decode] at hd
  split at hd
  case h_1 hlen => cases hd; exact .inl ⟨hlen, rfl⟩
  case h_2 hlen hrest => cases hrest; cases hd; exact .inr (.inl ⟨hlen, rfl⟩)
  case h_3 hlen hrest => cases hrest; cases hd; exact .inr (.inr ⟨hlen, rfl⟩)
  case h_4 => cases hd

/-- The fetch reads the instruction that the three bytes from `PC` on decode to, and no byte after it. -/
theorem fetchInstr_of_decode {i : Instr} {rest : List Byte}
    (h : decode [s.peek s.regs.pc, s.peek (s.regs.pc + 1), s.peek (s.regs.pc + 2)] = .ok (i, rest)) :
    s.fetchInstr = (i, s.pastBytes i.length) := by
  have first : s.fetch8 = (s.peek s.regs.pc, s.pastBytes 1) := by
    have read := fetch8_pastBytes s (n := 0) (by decide)
    rwa [pastBytes_zero, show s.regs.pc + BitVec.ofNat 16 0 = s.regs.pc from BitVec.add_zero _] at read
  have second : (s.pastBytes 1).fetch8 = (s.peek (s.regs.pc + 1), s.pastBytes 2) := fetch8_pastBytes s (by decide)
  have third : (s.pastBytes 2).fetch8 = (s.peek (s.regs.pc + 2), s.pastBytes 3) := fetch8_pastBytes s (by decide)
  rcases decode_eq_ok h with ⟨hlen, rfl⟩ | ⟨hlen, rfl⟩ | ⟨hlen, rfl⟩
  · simp only [State.fetchInstr, first, hlen, length_decodeOp]
  · simp only [State.fetchInstr, first, second, hlen, length_decodeOp]
  · simp only [State.fetchInstr, first, second, third, hlen, length_decodeOp]

/-! ### `PC` -/

theorem keepsPc_exec_core (i : Instr) (hp : ∀ o2, i ≠ .prefixCb o2) (hi : i.transfersControl = false) (s : State) :
    ∃ t, exec i s = .next t ∧ t.regs.pc = s.regs.pc := by
  cases i
  case prefixCb o2 => exact absurd rfl (hp o2)
  case jrE | jrCcE | retCc | jpCcNn | jpNn | callCcNn | rst | ret | reti | callNn | jpHl => cases hi
  -- Every other meaning is made of updates that each leave `PC` alone.
  all_goals exact ⟨_, rfl, by simp [pop16_regs, push16_regs]⟩

theorem transfersControl_decodeExtended (o : Byte) : (decodeExtended o).transfersControl = false := by
  fun_cases decodeExtended o <;> rfl

/-- An instruction that is no control transfer leaves `PC`, which the fetch has moved past it, where it is. -/
theorem keepsPc_exec (i : Instr) (hi : i.transfersControl = false) (s : State) :
    ∃ t, exec i s = .next t ∧ t.regs.pc = s.regs.pc := by
  by_cases h : ∃ o2, i = .prefixCb o2
  · obtain ⟨o2, rfl⟩ := h
    show ∃ t, execExtended o2 s = .next t ∧ t.regs.pc = s.regs.pc
    rw [execExtended_eq]
    exact keepsPc_exec_core _ (decodeExtended_ne_prefixCb o2) (transfersControl_decodeExtended o2) s
  · exact keepsPc_exec_core i (fun o2 h' => h ⟨o2, h'⟩) hi s

end Sys2Proof.Machine
end

section
/-! PROOFS. The parts of the step: the interrupt entry, the halted machine and the single step (spec 60_exceptions.md R300 to R305,
R320, R321, R375). -/

namespace Sys2Proof.Machine

variable (s : State)

/-! ### Which source is taken (R303, R304) -/

theorem bit_pend (i : Interrupt) : bit s.pend i.index = (s.iflag &&& s.ie).getLsbD i.index := by
  have inMask : (0x1F : Byte).getLsbD i.index = true := by cases i <;> rfl
  rw [bit, State.pend, BitVec.getLsbD_and, inMask, Bool.and_true]

theorem lowestSource_eq_some {p : Byte} {i : Interrupt} (h : bit p i.index = true)
    (hlow : ∀ j : Interrupt, j.index < i.index → bit p j.index = false) : lowestSource p = some i := by
  have skip (j : Interrupt) (hj : j.index < i.index := by decide) {r r' : Option Interrupt} :
      (if bit p j.index then r else r') = r' := if_neg (Bool.eq_false_iff.1 (hlow j hj))
  cases i
  case vblank => exact if_pos h
  case lcdStatus => exact (skip .vblank).trans (if_pos h)
  case timer => exact (skip .vblank).trans ((skip .lcdStatus).trans (if_pos h))
  case serial => exact (skip .vblank).trans ((skip .lcdStatus).trans ((skip .timer).trans (if_pos h)))
  case joypad =>
    exact (skip .vblank).trans ((skip .lcdStatus).trans ((skip .timer).trans ((skip .serial).trans (if_pos h))))

theorem lowestSource_eq_none_iff : ∀ p : Byte, lowestSource (p &&& 0x1F) = none ↔ p &&& 0x1F = 0 := by decide

theorem accepted_eq_none_iff : s.accepted = none ↔ ¬(s.ime = true ∧ s.pend ≠ 0) := by
  have := lowestSource_eq_none_iff (s.iflag &&& s.ie)
  unfold State.accepted
  split
  case isTrue hime => simp only [hime, true_and, not_not]; exact this
  case isFalse hime => simp [hime]

theorem exists_accepted_iff : (∃ i, s.accepted = some i) ↔ s.ime = true ∧ s.pend ≠ 0 := by
  rw [← Option.ne_none_iff_exists', ne_eq, accepted_eq_none_iff, not_not]

variable {s} {i : Interrupt}

theorem pend_ne_zero_of_accepted (h : s.accepted = some i) : s.pend ≠ 0 := ((exists_accepted_iff s).1 ⟨i, h⟩).2

theorem accepted_eq_some (hime : s.ime = true) (h : (s.iflag &&& s.ie).getLsbD i.index = true)
    (hlow : ∀ j : Interrupt, j.index < i.index → (s.iflag &&& s.ie).getLsbD j.index = false) : s.accepted = some i :=
  (if_pos hime).trans (lowestSource_eq_some ((bit_pend s i).trans h) fun j hj => (bit_pend s j).trans (hlow j hj))

/-! ### The parts of the step (R300) -/

theorem wake_of_pend (h : s.pend ≠ 0) : s.wake = s.setHalted false := by
  unfold State.wake
  split
  case isTrue => rfl
  case isFalse hw =>
    have hh : s.halted = false := Bool.eq_false_iff.2 fun hh => hw (by simpa [hh] using h)
    rw [State.setHalted, ← hh]

theorem wake_of_not_pend (h : s.pend = 0) : s.wake = s := if_neg (by simp [h])

theorem wake_of_not_halted (h : s.halted = false) : s.wake = s := if_neg (by simp [h])

/-- Part (2): an interrupt that is to be taken is taken, and the machine is not halted then (R321). -/
theorem step_of_accepted (h : s.accepted = some i) : step s = .next ((s.setHalted false).takeInterrupt i).advanceDevices := by
  have h' : (s.setHalted false).accepted = some i := h
  simp only [step, wake_of_pend (pend_ne_zero_of_accepted h), h']

/-- Part (3): a halted machine that nothing wakes idles. -/
theorem step_of_halted (hh : s.halted = true) (hpend : s.pend = 0) : step s = .next s.idle.advanceDevices := by
  have hnone : s.accepted = none := (accepted_eq_none_iff s).2 fun h => h.2 hpend
  simp only [step, wake_of_not_pend hpend, hnone, hh, if_true]

/-- Part (4): otherwise the fetched instruction runs. -/
theorem step_of_exec {t : State} (hh : s.halted = false) (h : s.accepted = none)
    (hexec : exec s.fetchInstr.1 s.fetchInstr.2 = .next t) : step s = .next t.advanceDevices := by
  simp only [step, wake_of_not_halted hh, h, hh, Bool.false_eq_true, if_false, hexec]

/-! ### The interrupt entry (R305) -/

variable (s) in
/-- The entry is one word store, the pending bit cleared before it, and updates of the registers, the latches and the cost. -/
theorem takeInterrupt_setHalted (i : Interrupt) (halted : Bool) :
    (s.setHalted halted).takeInterrupt i =
      (((s.setIf (s.iflag &&& ~~~i.mask)).writeWord (s.regs.sp - 2) s.regs.pc).withCpu
        { s.regs with sp := s.regs.sp - 2, pc := i.vector } false halted).setCost 5 := by
  have store := writeWord_withCpu (s.setIf (s.iflag &&& ~~~i.mask)) s.regs false halted (s.regs.sp - 2) s.regs.pc
  have push := (push16_eq ((s.setIf (s.iflag &&& ~~~i.mask)).withCpu s.regs false halted) s.regs.pc).trans
    (congrArg (fun t : State => t.setSp (s.regs.sp - 2)) store)
  exact congrArg (fun t : State => (t.setPc i.vector).setCost 5) push

theorem Interrupt.vector_eq (i : Interrupt) : i.vector = BitVec.ofNat 16 (0x40 + 8 * i.index) := by cases i <;> rfl

theorem writeWord_iflag_ne (s : State) {a : Word} (h : a ≠ 0xFF0F) (h' : a + 1 ≠ 0xFF0F) (w : Word) :
    (s.writeWord a w).iflag = s.iflag := by
  rw [State.writeWord, writeByte_iflag_ne _ h', writeByte_iflag_ne _ h]

/-- Settles O20: the lowest source of `pend` is the one accepted, and the entry is a word store after its pending bit is
cleared. -/
theorem interruptEntry : Obligations.InterruptEntry := by
  refine ⟨exists_accepted_iff, fun s i hime hbit hlow => ?_⟩
  refine ⟨_, step_of_accepted (accepted_eq_some hime hbit hlow), ?_⟩
  have hidden := (Evolves.refl (s := s)).setHalted false |>.takeInterrupt i |>.keepsHidden
  rw [takeInterrupt_setHalted] at hidden ⊢
  rw [← sub_two_succ]
  refine ⟨rfl, rfl, rfl, i.vector_eq, rfl, fun _ => rfl, rfl, writeWord_diags .., hidden, fun b => ?peek,
    fun hlo hhi => writeWord_iflag_ne _ hlo hhi _, fun hinv hlo hhi => ?plain⟩
  case peek => rw [peek_setCost, peek_withCpu]; rfl
  case plain =>
    simp only [peek_setCost, peek_withCpu]
    have hinv' : (s.setIf (s.iflag &&& ~~~i.mask)).MemInv := hinv
    obtain ⟨low, high⟩ := peek_writeWord _ hinv' hlo hhi s.regs.pc
    refine ⟨by rw [low, lo_toNat], by rw [high, hi_toNat], fun b hb hb' hif => ?_⟩
    rw [peek_writeWord_ne _ hlo hhi hb hb']
    exact peek_iflag_ne s _ hif

/-! ### The halted machine (R320, R321) -/

/-- Settles O21: nothing wakes the machine, so it idles for one unit, and the devices keep what is not theirs. -/
theorem haltedStep : Obligations.HaltedStep := by
  intro s hh hpend
  exact ⟨_, step_of_halted hh hpend, rfl, advanceDevices_regs _, (advanceDevices_halted _).trans hh,
    advanceDevices_ime _, advanceDevices_ie _, advanceDevices_boot _, advanceDevices_ram _, advanceDevices_diags _,
    advanceDevices_cost _⟩

theorem step_setHalted_of_pend (h : s.pend ≠ 0) : step s = step (s.setHalted false) := by
  have hwake : s.wake = (s.setHalted false).wake := (wake_of_pend h).trans (wake_of_not_halted rfl).symm
  simp only [step, hwake]

/-- Settles O22: both machines are awake after part (1) of the step. -/
theorem wakeUp : Obligations.WakeUp := by
  intro s _ hpend
  refine ⟨step_setHalted_of_pend hpend, fun hime => ?_, fun hime => if_neg (Bool.eq_false_iff.1 hime)⟩
  obtain ⟨i, hi⟩ := (exists_accepted_iff s).2 ⟨hime, hpend⟩
  refine ⟨i, _, hi, step_of_accepted hi, ?_, ?_⟩
  · rw [advanceDevices_halted, takeInterrupt_setHalted]; rfl
  · rw [advanceDevices_regs, takeInterrupt_setHalted]; rfl

/-! ### The single step (R375) -/

/-- Settles O19: the fetch moves `PC` past the instruction, and neither the instruction nor the devices move it again. -/
theorem singleStepAdvancesPc : Obligations.SingleStepAdvancesPc := by
  intro h i rest hh hnone hdecode hi
  obtain ⟨t, hexec, hpc⟩ := keepsPc_exec i hi (h.machine.pastBytes i.length)
  have hstep : step h.machine = .next t.advanceDevices :=
    step_of_exec hh hnone (by rw [fetchInstr_of_decode h.machine hdecode]; exact hexec)
  refine ⟨_, hstep, (congrArg Regs.pc (advanceDevices_regs t)).trans hpc, ?_⟩
  rw [HostSession.singleStep, hstep]
  rfl

end Sys2Proof.Machine
end

section
/-! PROOFS. The button update and its interrupt (spec 60_exceptions.md R366, R367). -/

namespace Sys2Proof.Machine

/-- A bit is set in `new` and not in `old`: a press edge. -/
theorem and_not_ne_zero_iff (new old : Byte) :
    new &&& ~~~old ≠ 0 ↔ ∃ k, k < 8 ∧ new.getLsbD k = true ∧ old.getLsbD k = false := by
  have edge {k : Nat} (hk : k < 8) : (new &&& ~~~old).getLsbD k = (new.getLsbD k && !old.getLsbD k) := by simp [hk]
  constructor
  · intro hne
    by_contra hnone
    refine hne (BitVec.eq_of_getLsbD_eq fun k hk => ((edge hk).trans ?_).trans BitVec.getLsbD_zero.symm)
    rw [Bool.and_eq_false_imp, Bool.not_eq_false']
    exact fun hnew => Bool.of_not_eq_false fun hold => hnone ⟨k, hk, hnew, hold⟩
  · rintro ⟨k, hk, hnew, hold⟩ hzero
    have hclear : (new &&& ~~~old).getLsbD k = false := by rw [hzero]; exact BitVec.getLsbD_zero
    rw [edge hk, hnew, hold] at hclear
    exact absurd hclear (by decide)

/-- Settles O59: a press edge raises the interrupt, and the new buttons are stored. -/
theorem buttonUpdate : Obligations.ButtonUpdate := by
  intro s new
  have hedge := and_not_ne_zero_iff new s.joypad.buttons
  unfold State.updateButtons
  by_cases h : new &&& ~~~s.joypad.buttons = 0
  · rw [if_neg (mt hedge.2 (not_not.2 h)), h]; rfl
  · rw [if_pos (hedge.1 h), bne_iff_ne.2 h]; rfl

end Sys2Proof.Machine
end

section
/-! PROOFS. Decoding and encoding undo each other (spec 30_encoding.md R100, R101, R114, R115, R118; 46_system.md R295). -/

namespace Sys2Proof.Laws.RoundTrip

/-- Each constructor by its own lemma. -/
theorem holds (i : Instr) : Statement i :=
  match i with
  | .nop => nop | .ldRrNn p nn => ldRrNn p nn | .ldBcA => ldBcA | .ldDeA => ldDeA | .ldHlIncA => ldHlIncA
  | .ldHlDecA => ldHlDecA | .incRr p => incRr p | .incR r => incR r | .incHl => incHl | .decR r => decR r
  | .decHl => decHl | .ldRN r n => ldRN r n | .ldHlN n => ldHlN n | .rlca => rlca | .rrca => rrca | .rla => rla
  | .rra => rra | .ldNnSp nn => ldNnSp nn | .addHlRr p => addHlRr p | .ldABc => ldABc | .ldADe => ldADe
  | .ldAHlInc => ldAHlInc | .ldAHlDec => ldAHlDec | .decRr p => decRr p | .stop => stop | .jrE e => jrE e
  | .jrCcE cc e => jrCcE cc e | .daa => daa | .cpl => cpl | .scf => scf | .ccf => ccf | .ldRR dst r => ldRR dst r
  | .ldRHl dst => ldRHl dst | .ldHlR r => ldHlR r | .halt => halt | .addAR r => addAR r | .addAHl => addAHl
  | .addAN n => addAN n | .adcAR r => adcAR r | .adcAHl => adcAHl | .adcAN n => adcAN n | .subR r => subR r
  | .subHl => subHl | .subN n => subN n | .sbcAR r => sbcAR r | .sbcAHl => sbcAHl | .sbcAN n => sbcAN n
  | .andR r => andR r | .andHl => andHl | .andN n => andN n | .xorR r => xorR r | .xorHl => xorHl | .xorN n => xorN n
  | .orR r => orR r | .orHl => orHl | .orN n => orN n | .cpR r => cpR r | .cpHl => cpHl | .cpN n => cpN n
  | .retCc cc => retCc cc | .pop q => pop q | .jpCcNn cc nn => jpCcNn cc nn | .jpNn nn => jpNn nn
  | .callCcNn cc nn => callCcNn cc nn | .push q => push q | .rst t => rst t | .ret => ret | .reti => reti
  | .prefixCb o2 => prefixCb o2 | .callNn nn => callNn nn | .ldhNA n => ldhNA n | .ldhCA => ldhCA
  | .addSpE e => addSpE e | .jpHl => jpHl | .ldNnA nn => ldNnA nn | .ldhAN n => ldhAN n | .ldhAC => ldhAC | .di => di
  | .ldHlSpE e => ldHlSpE e | .ldSpHl => ldSpHl | .ldANn nn => ldANn nn | .ei => ei | .undefD3 => undefD3
  | .undefDB => undefDB | .undefDD => undefDD | .undefE3 => undefE3 | .undefE4 => undefE4 | .undefEB => undefEB
  | .undefEC => undefEC | .undefED => undefED | .undefF4 => undefF4 | .undefFC => undefFC | .undefFD => undefFD
  | .rlcR r => rlcR r | .rlcHl => rlcHl | .rrcR r => rrcR r | .rrcHl => rrcHl | .rlR r => rlR r | .rlHl => rlHl
  | .rrR r => rrR r | .rrHl => rrHl | .slaR r => slaR r | .slaHl => slaHl | .sraR r => sraR r | .sraHl => sraHl
  | .swapR r => swapR r | .swapHl => swapHl | .srlR r => srlR r | .srlHl => srlHl | .bitBR b r => bitBR b r
  | .bitBHl b => bitBHl b | .resBR b r => resBR b r | .resBHl b => resBHl b | .setBR b r => setBR b r
  | .setBHl b => setBHl b

end Sys2Proof.Laws.RoundTrip

namespace Sys2Proof.Machine

/-- Settles O14: the round trip of every constructor. -/
theorem decodeAfterEncode : Obligations.DecodeAfterEncode := Laws.RoundTrip.holds

/-! ### The converse round trip -/

theorem opLength_bounds : ∀ o : Byte, 1 ≤ opLength o ∧ opLength o ≤ 3 := by decide

/-- What the decoder reads: the bytes its first one announces, as the instruction of those bytes (R101, R118). -/
theorem exists_of_decode {bytes rest : List Byte} {i : Instr} (hd : decode bytes = .ok (i, rest)) :
    ∃ o n h, i = decodeOp o n h ∧ bytes = [o, n, h].take (opLength o) ++ rest := by
  unfold decode at hd
  split at hd
  case h_1 => cases hd
  case h_2 o rest' =>
    split at hd
    case h_1 hlen => cases hd; exact ⟨o, 0, 0, rfl, by rw [hlen]; rfl⟩
    case h_2 n _ hlen => cases hd; exact ⟨o, n, 0, rfl, by rw [hlen]; rfl⟩
    case h_3 n h _ hlen => cases hd; exact ⟨o, n, h, rfl, by rw [hlen]; rfl⟩
    case h_4 => cases hd

theorem wellFormed_decodeExtended (o : Byte) : (decodeExtended o).wellFormed = true := by
  fun_cases decodeExtended o <;> rfl

/-- The decoder does not give `prefixCb` (R295, log entry 6). -/
theorem wellFormed_decodeOp (o n h : Byte) : (decodeOp o n h).wellFormed = true := by
  fun_cases decodeOp o n h
  case case1 => fun_cases decodeX0 o n h <;> rfl
  case case2 => fun_cases decodeX1 o <;> rfl
  case case3 => fun_cases decodeX2 o <;> rfl
  case case4 =>
    fun_cases decodeX3 o n h
    case case17 => exact wellFormed_decodeExtended n
    all_goals rfl

/-- The opcode byte stands first in the encoding of the instruction it selects. -/
theorem encode_decodeOp_head : ∀ o : Byte, (encode (decodeOp o 0 0)).take 1 = [o] := by decide

/-- `i` is encoded as the opcode byte of `i₀` and, after it, as many of the operand bytes as `i` has. -/
abbrev EncodesOperands (i i₀ : Instr) (operands : List Byte) : Prop :=
  encode i = (encode i₀).take 1 ++ operands.take (i.length - 1)

theorem encodesOperands_decodeX0 (o n h : Byte) : EncodesOperands (decodeX0 o n h) (decodeX0 o 0 0) [n, h] := by
  fun_cases decodeX0 o n h <;> simp_all [decodeX0, EncodesOperands, encode, Instr.length]

theorem encodesOperands_decodeX1 (o n h : Byte) : EncodesOperands (decodeX1 o) (decodeX1 o) [n, h] := by
  fun_cases decodeX1 o <;> rfl

theorem encodesOperands_decodeX2 (o n h : Byte) : EncodesOperands (decodeX2 o) (decodeX2 o) [n, h] := by
  fun_cases decodeX2 o <;> rfl

theorem encodesOperands_decodeX3 (o n h : Byte) : EncodesOperands (decodeX3 o n h) (decodeX3 o 0 0) [n, h] := by
  fun_cases decodeX3 o n h
  case case17 hz hy => simp [decodeX3, hz, hy, EncodesOperands, encode_decodeExtended, length_decodeExtended]
  all_goals simp_all [decodeX3, EncodesOperands, encode, Instr.length]

/-- The operand bytes bear on the encoding only where they stand (R109 to R111). -/
theorem encodesOperands_decodeOp (o n h : Byte) : EncodesOperands (decodeOp o n h) (decodeOp o 0 0) [n, h] := by
  unfold decodeOp
  split
  · exact encodesOperands_decodeX0 o n h
  · exact encodesOperands_decodeX1 o n h
  · exact encodesOperands_decodeX2 o n h
  · exact encodesOperands_decodeX3 o n h

theorem encode_decodeOp (o n h : Byte) : encode (decodeOp o n h) = [o, n, h].take (opLength o) := by
  obtain ⟨hpos, -⟩ := opLength_bounds o
  rw [encodesOperands_decodeOp, encode_decodeOp_head, length_decodeOp]
  obtain ⟨k, hk⟩ := Nat.exists_eq_succ_of_ne_zero (Nat.ne_of_gt hpos)
  rw [hk]
  rfl

/-- Settles O15: what is read is the instruction of the bytes its first one announces, and those are its encoding. -/
theorem encodeAfterDecode : Obligations.EncodeAfterDecode := by
  intro bytes i rest hd
  obtain ⟨o, n, h, rfl, rfl⟩ := exists_of_decode hd
  have hlen := opLength_bounds o
  rw [length_decodeOp, encode_decodeOp]
  exact ⟨wellFormed_decodeOp o n h, rfl, List.length_take_of_le hlen.2, hlen⟩

/-! ### Words, and the byte 0xCB before an extended opcode -/

/-- Settles O16: the decoder run on each word. -/
theorem sampleWords : Obligations.SampleWords :=
  ⟨rfl, rfl, rfl, rfl, rfl, rfl, rfl, rfl, rfl, rfl, rfl, rfl, rfl, rfl, rfl⟩

/-- Settles O17: the decoder reads the extended-page instruction that `prefixCb` runs. -/
theorem prefixByte : Obligations.PrefixByte := by
  intro o2 s
  obtain ⟨t, hnext, -, -⟩ := exec_answers (.prefixCb o2) s
  exact ⟨decodeExtended o2, rfl, length_decodeExtended o2, execExtended_eq o2 s, t, hnext⟩

end Sys2Proof.Machine
end

section
/-! PROOFS. The state after reset, the invariant, what holds of every step, and the host's commands (spec 10_state.md R61, R382;
60_exceptions.md R300, R311, R371, R372). -/

namespace Sys2Proof.Machine

/-- Settles O3: the updates of a step keep the memories and the ranges, and so do the devices after them. -/
theorem stepKeepsInvariant : Obligations.StepKeepsInvariant := by
  rintro s t ⟨hmem, hppu, htimer, -⟩ hstep
  obtain ⟨u, hu, evolves, hcost⟩ := step_answers s
  cases hu.symm.trans hstep
  exact advanceDevices_inv ⟨evolves.memInv hmem, evolves.ppuInv hppu, evolves.timerInv htimer, hcost⟩

/-- Settles O2: nothing is listed in the RAM and the pixel buffer, and every counter is 0. -/
theorem resetMeetsInvariant : Obligations.ResetMeetsInvariant := by
  intro rom bootRom hrom hromKeys hboot hbootKeys
  refine ⟨⟨canonical_nil, nofun, hrom, hromKeys, hboot, hbootKeys⟩,
    ⟨?mode, ?line, PpuMode.units_pos _, canonical_nil, nofun⟩, ?timer, Nat.zero_le 6⟩
  case mode => exact iff_of_false nofun (show ¬144 ≤ (0 : Byte).toNat by decide)
  case line => exact Nat.zero_le 153
  case timer => exact show 0 < 16 ∧ 0 < 64 ∧ 0 < 1 by decide

theorem cell_empty (y x : Nat) : ({ rows := [] } : PixelBuffer).cell y x = 0 := by
  show blankRow.getD x 0 = 0
  rw [List.getD_eq_getElem?_getD, blankRow, List.getElem?_replicate]
  split <;> rfl

/-- The overlay is set after reset, and covers the address of the first fetch. -/
theorem fetch8_resetOn (rom bootRom : Memory) : (State.resetOn rom bootRom).fetch8.1 = bootRom.read 0x00 := by
  have hregion : regionOf 0x0000 = .bootOverlay := (regionOf_overlay _).2 (by decide)
  show (State.resetOn rom bootRom).peek 0x0000 = _
  simp only [State.peek, hregion]
  rfl

/-- Settles O1: the table of R61 is the definition, but for the readings of empty memories. -/
theorem resetState : Obligations.ResetState := by
  intro rom bootRom s
  have clear : ({ z := false, n := false, h := false, c := false } : Flags).toByte = 0x00 := by decide
  refine ⟨fun r => by cases r <;> rfl, clear, rfl, rfl, rfl, rfl, rfl, rfl, rfl, fun a ha => peek_ram s ha, rfl, rfl, rfl,
    rfl, rfl, rfl, rfl, rfl, rfl, rfl, rfl, rfl, rfl, rfl, rfl, rfl, rfl, rfl, rfl, rfl, fun y x _ _ => cell_empty y x, rfl,
    rfl, rfl, rfl, rfl, fetch8_resetOn rom bootRom⟩

/-- Settles O4: every step and every instruction answers. -/
theorem everyStepCompletes : Obligations.EveryStepCompletes := by
  refine ⟨fun s => ?_, fun i s => ?_⟩
  · obtain ⟨u, hu, -⟩ := step_answers s
    exact ⟨_, hu⟩
  · obtain ⟨t, ht, -⟩ := exec_answers i s
    exact ⟨t, ht⟩

/-- Settles O5: neither an update of an instruction nor the devices write an image or set `boot`. -/
theorem imagesNeverChange : Obligations.ImagesNeverChange := by
  intro s t hstep
  obtain ⟨u, hu, evolves, -⟩ := step_answers s
  cases hu.symm.trans hstep
  rw [advanceDevices_rom, advanceDevices_bootRom, advanceDevices_boot]
  exact ⟨evolves.images.1, evolves.images.2, evolves.boot⟩

/-- Settles O18: the fetch reads the instruction and moves past its bytes, and the instruction answers. -/
theorem stepRunsDecodedInstruction : Obligations.StepRunsDecodedInstruction := by
  intro s i rest hhalted hnone hdecode
  obtain ⟨t, hexec, -⟩ := exec_answers i (s.pastBytes i.length)
  exact ⟨_, t, rfl, hexec, step_of_exec hhalted hnone (by rw [fetchInstr_of_decode s hdecode]; exact hexec)⟩

/-- Settles O60: each command by its definition; the turn of a running host is a step, which answers. -/
theorem hostCommands : Obligations.HostCommands := by
  intro h
  obtain ⟨u, hu, -⟩ := step_answers h.machine
  refine ⟨⟨rfl, rfl, rfl⟩, ⟨rfl, rfl, rfl⟩, ⟨rfl, rfl⟩, rfl, _, hu, ?_⟩
  have hturn : h.resume.turn =
      match step h.machine with
      | .next s => .next { h.resume with machine := s }
      | .fault r => .fault r
      | .refused r => .refused r := rfl
  rw [hturn, hu]

end Sys2Proof.Machine
end

section
/-! PROOFS. What the bus reads and writes beyond plain storage: the boot overlay, the unmapped addresses, the frame of a store and
the bulk transfer (spec 20_memory.md R74, R79, R81, R82, R89, R90). -/

namespace Sys2Proof.Machine

/-! ### Unmapped addresses (R79, R81, R82) -/

/-- The offsets of the I/O window at which no register stands (R82). -/
theorem ioReg_unmapped {k : Nat}
    (h : (0x01 ≤ k ∧ k ≤ 0x03) ∨ (0x08 ≤ k ∧ k ≤ 0x0E) ∨ (0x10 ≤ k ∧ k ≤ 0x3F) ∨ 0x4C ≤ k) : ioReg k = .unmapped := by
  unfold ioReg
  split
  case h_19 => rfl
  all_goals omega

/-- Settles O7: the echo area, the gap, and the offsets of the window at which no register stands. -/
theorem unmappedAddresses : Obligations.UnmappedAddresses := by
  intro s a v h
  by_cases hecho : a.toNat < 0xFE00
  · have hregion : regionOf a = .echo := (regionOf_echo a).2 (by omega)
    simp only [State.peek, State.writeByte, hregion]
    exact ⟨rfl, rfl⟩
  by_cases hgap : a.toNat < 0xFF00
  · have hregion : regionOf a = .gap := (regionOf_gap a).2 (by omega)
    simp only [State.peek, State.writeByte, hregion]
    exact ⟨rfl, trivial⟩
  · have hio : 0xFF00 ≤ a.toNat ∧ a.toNat < 0xFF80 := by omega
    have hreg : ioRegAt a = .unmapped := ioReg_unmapped (by rw [ioOffset hio.1]; omega)
    rw [peek_io s hio, writeByte_io s hio, hreg]
    exact ⟨rfl, rfl⟩

/-! ### The boot overlay (R74) -/

theorem peek_overlay (s : State) {a : Word} (ha : a.toNat < 0x0100) :
    s.peek a = if s.boot then s.bootRom.read a.toNat else s.rom.read a.toNat := by
  simp only [State.peek, (regionOf_overlay a).2 ha]

/-- Settles O8: the overlay is the lowest region, and the read of 0x0100 is the one with an effect. -/
theorem bootOverlay : Obligations.BootOverlay := by
  intro s a v
  exact ⟨peek_overlay s, Prod.ext (peek_rom_window s (a := 0x0100) (by decide) (.inl (by decide))) rfl, afterRead_ne s,
    fun ha => by rw [writeByte_rom_window s (by omega)]⟩

/-! ### The frame of a store (R89) -/

/-- Settles O10: a store is `State.Stores`, and keeps the registers, the latches, the hidden state and the cost. -/
theorem storeFrame : Obligations.StoreFrame := by
  intro s a v
  obtain ⟨-, -, frame, boot⟩ := stores_writeByte s a v
  exact ⟨frame, keepsRegs_writeByte s a v, keepsControl_writeByte s a v, keepsHidden_writeByte s a v, boot,
    writeByte_cost s a v⟩

/-! ### The bulk transfer (R90) -/

theorem transferSource_eq (v : Byte) {i : Nat} (hi : i < 160) : transferSource v i = BitVec.ofNat 16 (256 * v.toNat + i) := by
  have := v.isLt
  apply BitVec.eq_of_toNat_eq
  rw [transferSource_toNat v hi, BitVec.toNat_ofNat]
  omega

/-- The state after the first `n` bytes of the transfer. -/
def State.transferred (s : State) (v : Byte) (n : Nat) : State := (List.range n).foldl (State.transferByte v) s

theorem transferred_succ (s : State) (v : Byte) (n : Nat) :
    s.transferred v (n + 1) = (s.transferred v n).transferByte v n := by
  rw [State.transferred, List.range_succ, List.foldl_append]
  rfl

/-- A byte that is still to be copied reads as before: the transfer writes only bytes of the OAM that it has
copied, and it drops the overlay only when its source is above it. -/
theorem peek_transferred (s : State) (v : Byte) {n i : Nat} (hn : n ≤ i) (hi : i < 160) :
    (s.transferred v n).peek (transferSource v i) = s.peek (transferSource v i) := by
  have source := transferSource_toNat v hi
  have only : s.transferred v n = { s with ram := (s.transferred v n).ram, boot := (s.transferred v n).boot } :=
    foldl_transferByte_sameButRam s v (List.range n)
  refine peek_congr (fun hlow => ?boot) (by rw [only]) (by rw [only]) (fun _ => ?ram) (fun _ => by rw [only]; rfl)
    (fun _ => by rw [only])
  case boot =>
    have hv : v ≠ 0x01 := fun hv => by
      rw [source, hv, show (0x01 : Byte).toNat = 1 from rfl] at hlow
      omega
    rw [State.transferred, foldl_transferByte_boot s v _ fun k hk => by have := List.mem_range.1 hk; omega,
      decide_eq_false hv, Bool.false_and, Bool.not_false, Bool.and_true]
  case ram =>
    refine foldl_transferByte_ram_ne s v _ fun k hk => ?_
    have := List.mem_range.1 hk
    rw [source]
    unfold oamAddr
    omega

/-- The bytes already copied stand in the OAM as they read before the transfer. -/
theorem ram_transferred (s : State) (v : Byte) (hw : s.ram.wf) {n : Nat} (hn : n ≤ 160) :
    (s.transferred v n).ram.wf ∧ ∀ i < n, (s.transferred v n).ram.read (oamAddr i) = s.peek (transferSource v i) := by
  induction n with
  | zero => exact ⟨hw, nofun⟩
  | succ n ih =>
    obtain ⟨hwf, copied⟩ := ih (by omega)
    have hram : (s.transferred v (n + 1)).ram = (s.transferred v n).ram.write (oamAddr n) (s.peek (transferSource v n)) := by
      rw [transferred_succ, ← peek_transferred s v (Nat.le_refl n) hn]
      simp only [State.transferByte, readByte_fst, readByte_snd, State.writeRam_ram, afterRead_ram]
    rw [hram]
    refine ⟨write_wf hwf _ _, fun i hi => (lookup_update hwf _ _ _).trans ?_⟩
    by_cases h : i = n
    · rw [h, if_pos rfl]
    · rw [if_neg (by unfold oamAddr; omega)]
      exact copied i (by omega)

theorem toNat_oam {i : Nat} (hi : i < 160) : ((0xFE00 : Word) + BitVec.ofNat 16 i).toNat = oamAddr i := by
  rw [BitVec.toNat_add, BitVec.toNat_ofNat, show (0xFE00 : Word).toNat = 0xFE00 from rfl, oamAddr]
  omega

/-- The OAM on the bus (R80). -/
theorem peek_oam (s : State) {i : Nat} (hi : i < 160) : s.peek (0xFE00 + BitVec.ofNat 16 i) = s.ram.read (oamAddr i) := by
  rw [peek_ram, toNat_oam hi]
  rw [toNat_oam hi]
  unfold RamAddr oamAddr
  omega

theorem writeByte_dma (s : State) (v : Byte) : s.writeByte 0xFF46 v = s.bulkTransfer v :=
  writeByte_io s (by decide) v

/-- Settles O11: the transfer copies byte by byte what read before it, and outside the OAM it is a store. -/
theorem bulkTransfer : Obligations.BulkTransfer := by
  intro s v hw t
  refine ⟨fun i hi => ?copied, ?boot, fun b hoam hboot => ?frame, keepsRegs_writeByte s _ v, keepsControl_writeByte s _ v,
    keepsHidden_writeByte s _ v, writeByte_cost s _ v⟩
  case copied =>
    obtain ⟨-, copied⟩ := ram_transferred s v hw (Nat.le_refl 160)
    rw [peek_oam t hi, ← transferSource_eq v hi, ← copied i hi]
    exact congrArg (fun u : State => u.ram.read (oamAddr i)) (writeByte_dma s v)
  case boot => exact (congrArg State.boot (writeByte_dma s v)).trans (bulkTransfer_boot s v)
  case frame =>
    by_cases hb : b = 0xFF46
    · -- 0xFF46 itself is not readable (R49).
      rw [hb, peek_io t (by decide), peek_io s (by decide)]
      rfl
    · refine peek_writeByte s ?_
      rintro (h | ⟨-, h⟩ | ⟨-, h⟩ | ⟨h, -⟩)
      · exact hb h
      · exact hoam h
      · exact hboot h
      · exact absurd h (by decide)

end Sys2Proof.Machine
end

section
/-! PROOFS. What no instruction does (spec 10_state.md R22, R27, R30, R56, R57; 20_memory.md R92; 42_alu8.md section 1). -/

namespace Sys2Proof.Machine

/-- The result is a next state of which `P` holds. -/
abbrev Yields (r : Result) (P : State → Prop) : Prop := ∃ t, r = .next t ∧ P t

theorem Yields.of_next {r : Result} {P : State → Prop} (h : Yields r P) {t : State} (ht : r = .next t) : P t := by
  obtain ⟨u, hu, hP⟩ := h
  cases hu.symm.trans ht
  exact hP

theorem Yields.ite {c : Prop} [Decidable c] {r r' : Result} {P : State → Prop} (h : Yields r P) (h' : Yields r' P) :
    Yields (if c then r else r') P := by
  split
  · exact h
  · exact h'

/-- What holds of the other instructions holds of `prefixCb`, which runs the extended-page instruction of its byte (R295). -/
theorem exec_yields_of_core {Q : Instr → Prop} {P : State → State → Prop}
    (hQ : ∀ o2, Q (.prefixCb o2) → Q (decodeExtended o2))
    (core : ∀ i, (∀ o2, i ≠ .prefixCb o2) → Q i → ∀ s, Yields (exec i s) (P s)) (i : Instr) (hi : Q i) (s : State) :
    Yields (exec i s) (P s) := by
  by_cases h : ∃ o2, i = .prefixCb o2
  · obtain ⟨o2, rfl⟩ := h
    show Yields (execExtended o2 s) (P s)
    rw [execExtended_eq]
    exact core _ (decodeExtended_ne_prefixCb o2) (hQ o2 hi) s
  · exact core i (fun o2 h' => h ⟨o2, h'⟩) hi s

/-! ### Flags (R22) -/

theorem Regs.setPairQ_f_of_ne (g : Regs) {q : PairQ} (hq : q ≠ .af) (w : Word) : (g.setPairQ q w).f = g.f := by
  cases q
  case af => exact absurd rfl hq
  all_goals rfl

theorem flags_pop16 (s : State) : s.pop16.2.flags = s.flags := (keepsRegs_but_sp (pop16_regs s)).2.1

theorem flags_push16 (s : State) (w : Word) : (s.push16 w).flags = s.flags := (keepsRegs_but_sp (push16_regs s w)).2.1

theorem writesFlags_decodeExtended : ∀ o2 : Byte, (decodeExtended o2).writesFlags = (Instr.prefixCb o2).writesFlags := by decide

theorem keepsFlags_exec_core (i : Instr) (hp : ∀ o2, i ≠ .prefixCb o2) (hi : i.writesFlags = false) (s : State) :
    Yields (exec i s) fun t => t.flags = s.flags := by
  cases i
  case prefixCb o2 => exact absurd rfl (hp o2)
  case incR | incHl | decR | decHl | rlca | rrca | rla | rra | addHlRr | daa | cpl | scf | ccf | addAR | addAHl | addAN | adcAR
      | adcAHl | adcAN | subR | subHl | subN | sbcAR | sbcAHl | sbcAN | andR | andHl | andN | xorR | xorHl | xorN | orR | orHl
      | orN | cpR | cpHl | cpN | addSpE | ldHlSpE | rlcR | rlcHl | rrcR | rrcHl | rlR | rlHl | rrR | rrHl | slaR | slaHl | sraR
      | sraHl | swapR | swapHl | srlR | srlHl | bitBR | bitBHl => cases hi
  case pop q =>
    have hq : q ≠ .af := ne_of_beq_false hi
    exact ⟨_, rfl, (Regs.setPairQ_f_of_ne _ hq _).trans (flags_pop16 s)⟩
  case jrCcE | jpCcNn => exact Yields.ite ⟨_, rfl, rfl⟩ ⟨_, rfl, rfl⟩
  case callCcNn => exact Yields.ite ⟨_, rfl, flags_push16 s s.regs.pc⟩ ⟨_, rfl, rfl⟩
  case retCc => exact Yields.ite ⟨_, rfl, flags_pop16 s⟩ ⟨_, rfl, rfl⟩
  case ret | reti => exact ⟨_, rfl, flags_pop16 s⟩
  case callNn | rst => exact ⟨_, rfl, flags_push16 s s.regs.pc⟩
  case push q => exact ⟨_, rfl, flags_push16 s (s.pairQ q)⟩
  -- Every other meaning is made of updates that each leave the flags alone.
  all_goals exact ⟨_, rfl, by simp [State.flags]⟩

/-- Settles O24: an instruction outside the table leaves the flags alone. -/
theorem flagsWrittenOnlyAsListed : Obligations.FlagsWrittenOnlyAsListed := by
  intro i s t hexec hi
  exact (exec_yields_of_core (fun o2 h => (writesFlags_decodeExtended o2).trans h) keepsFlags_exec_core i hi s).of_next hexec

/-! ### The latches and the diagnostic stream (R27, R30, R57) -/

/-- The instructions that write `IME`, `halted` or the diagnostic stream. -/
def controlWriters : List Instr := ([.di, .ei, .reti, .halt] : List Instr) ++ undefinedRows.map Prod.snd

theorem decodeExtended_not_mem_controlWriters : ∀ o2 : Byte, decodeExtended o2 ∉ controlWriters := by decide

section
variable {s t : State}

theorem State.KeepsControl.setCost (h : s.KeepsControl t) (n : Nat) : s.KeepsControl (t.setCost n) := h

theorem State.KeepsControl.setPc (h : s.KeepsControl t) (w : Word) : s.KeepsControl (t.setPc w) := h

theorem State.KeepsControl.setPairQ (h : s.KeepsControl t) (q : PairQ) (w : Word) : s.KeepsControl (t.setPairQ q w) := h

end

theorem keepsControl_exec_core (i : Instr) (hp : ∀ o2, i ≠ .prefixCb o2) (hi : i ∉ controlWriters) (s : State) :
    Yields (exec i s) fun t => s.KeepsControl t := by
  cases i
  case prefixCb o2 => exact absurd rfl (hp o2)
  case di | ei | reti | halt | undefD3 | undefDB | undefDD | undefE3 | undefE4 | undefEB | undefEC | undefED | undefF4 | undefFC
      | undefFD => exact absurd (by decide) hi
  case jrCcE | jpCcNn => exact Yields.ite ⟨_, rfl, rfl, rfl, rfl⟩ ⟨_, rfl, rfl, rfl, rfl⟩
  case callCcNn => exact Yields.ite ⟨_, rfl, ((keepsControl_push16 s _).setPc _).setCost _⟩ ⟨_, rfl, rfl, rfl, rfl⟩
  case retCc => exact Yields.ite ⟨_, rfl, ((keepsControl_pop16 s).setPc _).setCost _⟩ ⟨_, rfl, rfl, rfl, rfl⟩
  case ret => exact ⟨_, rfl, ((keepsControl_pop16 s).setPc _).setCost _⟩
  case pop => exact ⟨_, rfl, ((keepsControl_pop16 s).setPairQ _ _).setCost _⟩
  case callNn | rst => exact ⟨_, rfl, ((keepsControl_push16 s _).setPc _).setCost _⟩
  case push => exact ⟨_, rfl, (keepsControl_push16 s _).setCost _⟩
  case ldABc | ldADe | ldAHlInc | ldAHlDec | ldRHl | ldhAN | ldhAC | ldANn | addAHl | adcAHl | subHl | sbcAHl | andHl | xorHl
      | orHl | cpHl | bitBHl | ldBcA | ldDeA | ldHlIncA | ldHlDecA | ldHlN | ldHlR | ldhNA | ldhCA | ldNnA | ldNnSp | incHl
      | decHl | rlcHl | rrcHl | rlHl | rrHl | slaHl | sraHl | swapHl | srlHl | resBHl | setBHl =>
    -- A read and a write leave the latches and the stream alone.
    exact ⟨_, rfl, by simp [State.KeepsControl]⟩
  -- The others write nothing but registers.
  all_goals exact ⟨_, rfl, rfl, rfl, rfl⟩

theorem keepsControl_exec (i : Instr) (hi : i ∉ controlWriters) (s : State) : Yields (exec i s) fun t => s.KeepsControl t :=
  exec_yields_of_core (Q := (· ∉ controlWriters)) (fun o2 _ => decodeExtended_not_mem_controlWriters o2)
    keepsControl_exec_core i hi s

/-- An undefined opcode appends its record. -/
theorem emits_exec_undefined (s : State) {i : Instr} (hi : i ∈ undefinedRows.map Prod.snd) :
    Yields (exec i s) fun t => t.ime = s.ime ∧ t.halted = s.halted ∧ ∃ d, t.diags = s.diags ++ [d] := by
  obtain ⟨p, hp, rfl⟩ := List.mem_map.1 hi
  exact ⟨_, exec_undefined s p hp, rfl, rfl, _, rfl⟩

/-- Settles O25: the four instructions of the latches, the undefined opcodes, and the others, which write none of the three. -/
theorem latchesWrittenOnlyByTheirInstructions : Obligations.LatchesWrittenOnlyByTheirInstructions := by
  intro i s t hexec
  by_cases hundef : i ∈ undefinedRows.map Prod.snd
  · obtain ⟨hime, hhalted, hdiags⟩ := (emits_exec_undefined s hundef).of_next hexec
    exact ⟨fun _ _ _ => hime, fun _ => hhalted, .inr ⟨hundef, hdiags⟩⟩
  by_cases hlatch : i ∈ [.di, .ei, .reti, .halt]
  · simp only [List.mem_cons, List.not_mem_nil, or_false] at hlatch
    rcases hlatch with rfl | rfl | rfl | rfl
    · cases hexec; exact ⟨fun h => absurd rfl h, fun _ => rfl, .inl rfl⟩
    · cases hexec; exact ⟨fun _ h => absurd rfl h, fun _ => rfl, .inl rfl⟩
    · obtain ⟨_, hnext, -, -, -, -, hhalted, hdiags, -⟩ := done_return s true 4
      cases hnext.symm.trans hexec
      exact ⟨fun _ _ h => absurd rfl h, fun _ => hhalted, .inl hdiags⟩
    · cases hexec; exact ⟨fun _ _ _ => rfl, fun h => absurd rfl h, .inl rfl⟩
  · have hi : i ∉ controlWriters := fun h => (List.mem_append.1 h).elim hlatch hundef
    obtain ⟨hime, hhalted, hdiags⟩ := (keepsControl_exec i hi s).of_next hexec
    exact ⟨fun _ _ _ => hime, fun _ => hhalted, .inl hdiags⟩

/-! ### The devices (R56, R92 (4)) -/

/-- Settles O26: an instruction is made of updates, none of which reaches the hidden state. -/
theorem hiddenStateOutOfReach : Obligations.HiddenStateOutOfReach := by
  intro i s t hexec
  obtain ⟨u, hu, evolves, -⟩ := exec_answers i s
  cases hu.symm.trans hexec
  exact evolves.keepsHidden

end Sys2Proof.Machine
end

section
/-! PROOFS. `DAA` after an addition and after a subtraction of packed-BCD bytes (spec 42_alu8.md R201; 70_reset_and_hazards.md
R391). -/

namespace Sys2Proof.Machine

/-! ### Packed-BCD arithmetic -/

/-- The packed-BCD byte of a number below 100. -/
def packed (x : Nat) : Nat := 16 * (x / 10) + x % 10

theorem packed_le {x : Nat} (hx : x < 100) : packed x ≤ 0x99 := by unfold packed; omega

theorem packed_mod (x : Nat) : packed x % 16 = x % 10 := by unfold packed; omega

theorem packed_eq_zero_iff (x : Nat) : packed x = 0 ↔ x = 0 := by unfold packed; omega

/-- A decimal carry `k` out of the low digits is 6 too little in the binary sum, and a carry `k'` out of the high digits is
16 times 10. -/
theorem packed_add {x y c : Nat} (hx : x < 100) (hy : y < 100) (hc : c ≤ 1) :
    ∃ k k', (k = if x % 10 + y % 10 + c ≥ 10 then 1 else 0) ∧ (k' = if x + y + c ≥ 100 then 1 else 0) ∧
      packed x + packed y + c + 6 * k = packed ((x + y + c) % 100) + 160 * k' := by
  refine ⟨_, _, rfl, rfl, ?_⟩
  have hmod : (x + y + c) % 100 = x + y + c - if x + y + c ≥ 100 then 100 else 0 := by split <;> omega
  rw [hmod]
  unfold packed
  split <;> split <;> omega

/-- The same of the borrows of a difference. -/
theorem packed_sub {x y c : Nat} (hx : x < 100) (hy : y < 100) (hc : c ≤ 1) :
    ∃ k k', (k = if x % 10 < y % 10 + c then 1 else 0) ∧ (k' = if x < y + c then 1 else 0) ∧
      packed x + 160 * k' = packed ((x + 100 - y + 100 - c) % 100) + packed y + c + 6 * k := by
  refine ⟨_, _, rfl, rfl, ?_⟩
  have hmod : (x + 100 - y + 100 - c) % 100 = (x + if x < y + c then 100 else 0) - y - c := by split <;> omega
  rw [hmod]
  unfold packed
  split <;> split <;> omega

/-! ### The adjusted answer of the ALU -/

/-- The answer is the packed-BCD byte of `z` with the decimal carry or borrow `c`. -/
structure AluOut.IsDecimal (o : AluOut) (z : Nat) (c : Bool) : Prop where
  res : o.res.toNat = packed z
  carry : o.flags.c = c
  zero : o.flags.z = decide (z = 0)
  half : o.flags.h = false

/-- `DAA` of an answer of the ALU. -/
abbrev AluOut.adjusted (o : AluOut) : AluOut := daa8 o.res o.flags

/-- The zero flag and the half-carry flag follow from the result. -/
theorem isDecimal_adjusted {o : AluOut} {z : Nat} {c : Bool} (hres : o.adjusted.res.toNat = packed z)
    (hcarry : o.adjusted.flags.c = c) : o.adjusted.IsDecimal z c := by
  refine ⟨hres, hcarry, ?_, by rw [AluOut.adjusted, daa8_flags]⟩
  rw [AluOut.adjusted, daa8_flags, hres]
  exact decide_eq_decide.2 (packed_eq_zero_iff z)

section
variable {a b : Byte} {x y : Nat} (hx : x < 100) (hy : y < 100) (ha : a.toNat = packed x) (hb : b.toNat = packed y)
  (cin : Bool)
include hx hy ha hb

/-- The adjustment after an addition is 6 for a carry out of the low digits and 0x60 for one out of the high digits. -/
theorem isDecimal_add8 :
    (add8 a b cin).adjusted.IsDecimal ((x + y + carryIn cin) % 100) (decide (x + y + carryIn cin ≥ 100)) := by
  obtain ⟨k, k', hk, hk', hsum⟩ := packed_add hx hy (carryIn_le_one cin)
  have hx' := packed_mod x
  have hy' := packed_mod y
  have hz := packed_le (x := (x + y + carryIn cin) % 100) (by omega)
  have hcin := carryIn_le_one cin
  have hk1 : k ≤ 1 := by split at hk <;> omega
  have hlow : packed x % 16 + packed y % 16 + carryIn cin > 15 ∨ (packed x + packed y + carryIn cin) % 256 % 16 > 9 ↔
      x % 10 + y % 10 + carryIn cin ≥ 10 := by omega
  have hhigh : packed x + packed y + carryIn cin > 255 ∨ (packed x + packed y + carryIn cin) % 256 > 0x99 ↔
      x + y + carryIn cin ≥ 100 := by split at hk' <;> omega
  have hres : (add8 a b cin).res.toNat = (packed x + packed y + carryIn cin) % 256 := by rw [add8_res, ha, hb]
  have low : daaLow (add8 a b cin).res (add8 a b cin).flags = 6 * k := by
    simp only [daaLow, add8_flags, hres, ha, hb, hlow, hk, decide_eq_true_eq, true_and]
    split <;> rfl
  have high : daaHigh (add8 a b cin).res (add8 a b cin).flags = 96 * k' := by
    simp only [daaHigh, add8_flags, hres, ha, hb, hhigh, hk', decide_eq_true_eq, true_and]
    split <;> rfl
  refine isDecimal_adjusted ?res ?carry
  case res =>
    rw [AluOut.adjusted, daa8_res, low, high, hres, add8_flags]
    simp only [Bool.false_eq_true, if_false]
    omega
  case carry =>
    rw [AluOut.adjusted, daa8_flags, hres, add8_flags, ha, hb]
    simp only [Bool.not_false, Bool.true_and, ← Bool.decide_or, hhigh]

/-- The adjustment after a subtraction is 6 for a borrow into the low digits and 0x60 for one into the high digits. -/
theorem isDecimal_sub8 :
    (sub8 a b cin).adjusted.IsDecimal ((x + 100 - y + 100 - carryIn cin) % 100) (decide (x < y + carryIn cin)) := by
  obtain ⟨k, k', hk, hk', hdiff⟩ := packed_sub hx hy (carryIn_le_one cin)
  have hx' := packed_mod x
  have hy' := packed_mod y
  have hxle := packed_le hx
  have hz := packed_le (x := (x + 100 - y + 100 - carryIn cin) % 100) (by omega)
  have hcin := carryIn_le_one cin
  have hk1 : k ≤ 1 := by split at hk <;> omega
  have hlt : packed x < packed y + carryIn cin ↔ x < y + carryIn cin := by split at hk' <;> omega
  have low : daaLow (sub8 a b cin).res (sub8 a b cin).flags = 6 * k := by
    simp only [daaLow, sub8_flags, ha, hb, hx', hy', hk, decide_eq_true_eq, Bool.true_eq_false, false_and, or_false]
    split <;> rfl
  have high : daaHigh (sub8 a b cin).res (sub8 a b cin).flags = 96 * k' := by
    simp only [daaHigh, sub8_flags, ha, hb, hlt, hk', decide_eq_true_eq, Bool.true_eq_false, false_and, or_false]
    split <;> rfl
  have hres : (sub8 a b cin).res.toNat = packed ((x + 100 - y + 100 - carryIn cin) % 100) + 96 * k' + 6 * k := by
    have := sub8_res a b cin
    rw [ha, hb] at this
    split at hk' <;> omega
  refine isDecimal_adjusted ?res ?carry
  case res =>
    rw [AluOut.adjusted, daa8_res, low, high, hres, sub8_flags, if_pos rfl]
    split at hk' <;> omega
  case carry =>
    rw [AluOut.adjusted, daa8_flags, sub8_flags, ha, hb]
    simp only [Bool.not_true, Bool.false_and, Bool.or_false, hlt]

end

/-- `DAA` after an instruction that accumulates `o`. -/
theorem exists_daa {i : Instr} {s : State} {o : AluOut} {n z : Nat} {c : Bool} (hexec : exec i s = done n (s.accumulate o))
    (h : o.adjusted.IsDecimal z c) :
    ∃ t u, exec i s = .next t ∧ exec .daa t = .next u ∧ (u.reg .a).toNat = packed z ∧ u.flags.c = c ∧
      u.flags.z = decide (z = 0) ∧ u.flags.h = false :=
  ⟨_, _, hexec, rfl, h.res, h.carry, h.zero, h.half⟩

/-- Settles O41: the adjusted answers of `add8` and `sub8`, without and with the carry in. -/
theorem decimalArithmetic : Obligations.DecimalArithmetic := by
  intro s x y hx hy ha n cin bcd
  have hb : n.toNat = packed y := (BitVec.toNat_ofNat ..).trans (Nat.mod_eq_of_lt (by omega))
  refine ⟨exists_daa rfl (isDecimal_add8 hx hy ha hb false), exists_daa rfl (isDecimal_add8 hx hy ha hb s.flags.c),
    exists_daa rfl ?sub, exists_daa rfl (isDecimal_sub8 hx hy ha hb s.flags.c)⟩
  have hz : (x + 100 - y) % 100 = (x + 100 - y + 100 - 0) % 100 := by omega
  rw [hz]
  exact isDecimal_sub8 hx hy ha hb false

end Sys2Proof.Machine
end

section
/-! PROOFS. The timer and the divider (spec 60_exceptions.md R330 to R335). -/

namespace Sys2Proof.Machine

/-! ### One unit -/

theorem Timer.advanceDivider_eq (t : Timer) :
    t.advanceDivider =
      { t with tsub := if t.tsub = 15 then 0 else t.tsub + 1, div := if t.tsub = 15 then t.div + 1 else t.div } := by
  have hperiod : t.tsub + 1 = Config.timerDivPeriod ↔ t.tsub = 15 := Nat.succ_inj (b := 15)
  unfold Timer.advanceDivider
  simp only [hperiod]
  split <;> rfl

/-- The state after one unit: the divider has advanced, and the counter, its accumulator and `IF` are as given. -/
def State.ticked (s : State) (tima : Byte) (tacc : Nat) (f : Byte) : State :=
  { s with timer := { s.timer.advanceDivider with tima := tima, tacc := tacc }, iflag := f }

variable {s : State}

/-- A unit advances the sub-counter: `TIMER_UNITS_PER_SUB` is 1 (R331, D25). -/
theorem timerUnit_eq (h : s.TimerInv) :
    s.timerUnit =
      { s with timer := s.timer.advanceDivider.advanceCounter.1 }.raiseIf s.timer.advanceDivider.advanceCounter.2
        .timer := by
  obtain ⟨-, -, hraw⟩ := h
  have hraw : s.timer.traw = 0 := Nat.lt_one_iff.1 hraw
  have hunit : s.timer.unit = s.timer.advanceDivider.advanceCounter := by
    have hself : { s.timer with traw := 0 } = s.timer := by rw [← hraw]
    rw [Timer.unit, hraw, hself]
    rfl
  rw [State.timerUnit, hunit]

theorem enabled_advanceDivider (t : Timer) : t.advanceDivider.enabled = t.tac.getLsbD 2 := by
  rw [Timer.advanceDivider_eq]; rfl

theorem threshold_advanceDivider (t : Timer) : t.advanceDivider.threshold = t.threshold := by
  rw [Timer.advanceDivider_eq]; rfl

theorem timerUnit_of_disabled (h : s.TimerInv) (hen : s.timer.tac.getLsbD 2 = false) :
    s.timerUnit = s.ticked s.timer.tima s.timer.tacc s.iflag := by
  rw [timerUnit_eq h, Timer.advanceCounter, enabled_advanceDivider, hen, State.ticked, Timer.advanceDivider_eq]
  rfl

theorem timerUnit_of_lt (h : s.TimerInv) (hen : s.timer.tac.getLsbD 2 = true) (hlt : s.timer.tacc + 1 < s.timer.threshold) :
    s.timerUnit = s.ticked s.timer.tima (s.timer.tacc + 1) s.iflag := by
  have hlt : ¬s.timer.advanceDivider.tacc + 1 ≥ s.timer.threshold := by
    rw [Timer.advanceDivider_eq]; exact Nat.not_le_of_lt hlt
  rw [timerUnit_eq h, Timer.advanceCounter, enabled_advanceDivider, hen, threshold_advanceDivider, if_pos rfl, if_neg hlt,
    State.ticked, Timer.advanceDivider_eq]
  rfl

theorem timerUnit_of_ge (h : s.TimerInv) (hen : s.timer.tac.getLsbD 2 = true) (hge : s.timer.tacc + 1 ≥ s.timer.threshold) :
    s.timerUnit =
      if s.timer.tima = 0xFF then s.ticked s.timer.tma 0 (s.iflag ||| 0x04) else s.ticked (s.timer.tima + 1) 0 s.iflag := by
  have hge : s.timer.advanceDivider.tacc + 1 ≥ s.timer.threshold := by rw [Timer.advanceDivider_eq]; exact hge
  rw [timerUnit_eq h, Timer.advanceCounter, enabled_advanceDivider, hen, threshold_advanceDivider, if_pos rfl, if_pos hge,
    Timer.advanceDivider_eq]
  by_cases hmax : s.timer.tima = 0xFF
  · simp only [hmax, if_true, State.ticked, Timer.advanceDivider_eq]; rfl
  · simp only [hmax, if_false, State.ticked, Timer.advanceDivider_eq]; rfl

/-- Whatever `TAC` says, a unit is one of the three. -/
theorem exists_ticked (h : s.TimerInv) : ∃ tima tacc f, s.timerUnit = s.ticked tima tacc f := by
  cases hen : s.timer.tac.getLsbD 2
  · exact ⟨_, _, _, timerUnit_of_disabled h hen⟩
  · by_cases hge : s.timer.tacc + 1 ≥ s.timer.threshold
    · rw [timerUnit_of_ge h hen hge]
      split <;> exact ⟨_, _, _, rfl⟩
    · exact ⟨_, _, _, timerUnit_of_lt h hen (Nat.lt_of_not_le hge)⟩

theorem timerUnit_divider (h : s.TimerInv) :
    s.timerUnit.timer.tsub = (if s.timer.tsub = 15 then 0 else s.timer.tsub + 1) ∧
      s.timerUnit.timer.div = if s.timer.tsub = 15 then s.timer.div + 1 else s.timer.div := by
  obtain ⟨_, _, _, hunit⟩ := exists_ticked h
  rw [hunit, State.ticked, Timer.advanceDivider_eq]
  exact ⟨rfl, rfl⟩

theorem timerUnit_settings (h : s.TimerInv) :
    s.timerUnit.timer.tma = s.timer.tma ∧ s.timerUnit.timer.tac = s.timer.tac ∧ s.timerUnit.timer.traw = s.timer.traw := by
  obtain ⟨_, _, _, hunit⟩ := exists_ticked h
  rw [hunit, State.ticked, Timer.advanceDivider_eq]
  exact ⟨rfl, rfl, rfl⟩

/-! ### Many units -/

theorem timerTick_succ (s : State) (n : Nat) : s.timerTick (n + 1) = (s.timerTick n).timerUnit := by
  induction n generalizing s with
  | zero => rfl
  | succ n ih => exact ih s.timerUnit

theorem timerTick_settings (h : s.TimerInv) (n : Nat) :
    (s.timerTick n).timer.tma = s.timer.tma ∧ (s.timerTick n).timer.tac = s.timer.tac ∧
      (s.timerTick n).timer.traw = s.timer.traw := by
  induction n with
  | zero => exact ⟨rfl, rfl, rfl⟩
  | succ n ih =>
    obtain ⟨htma, htac, htraw⟩ := timerUnit_settings (timerTick_inv h n)
    rw [timerTick_succ, htma, htac, htraw]
    exact ih

/-- Nothing but `DIV`, `TIMA`, the two accumulators and `IF` changes (R330). -/
theorem timerTick_frame (h : s.TimerInv) (n : Nat) {t : State} (ht : t = s.timerTick n) :
    t = { s with
          timer := { s.timer with div := t.timer.div, tima := t.timer.tima, tsub := t.timer.tsub, tacc := t.timer.tacc }
          iflag := t.iflag } := by
  obtain ⟨htma, htac, htraw⟩ := timerTick_settings h n
  rw [← ht] at htma htac htraw
  have htimer : t.timer =
      { div := t.timer.div, tima := t.timer.tima, tma := s.timer.tma, tac := s.timer.tac, tsub := t.timer.tsub
        tacc := t.timer.tacc, traw := s.timer.traw } := by rw [← htma, ← htac, ← htraw]
  have heq : t = { s with timer := t.timer, iflag := t.iflag } := by rw [ht]; exact timerTick_eq s n
  exact heq.trans (congrArg (fun timer => { s with timer := timer, iflag := t.iflag }) htimer)

/-- `DIV` counts every 16th unit from the one at which the sub-counter was 0. -/
theorem timerTick_divider (h : s.TimerInv) (n : Nat) :
    (s.timerTick n).timer.tsub = (s.timer.tsub + n) % 16 ∧
      (s.timerTick n).timer.div = s.timer.div + BitVec.ofNat 8 ((s.timer.tsub + n) / 16) := by
  have hsub : s.timer.tsub < 16 := h.1
  induction n with
  | zero =>
    rw [Nat.add_zero, Nat.mod_eq_of_lt hsub, Nat.div_eq_of_lt hsub]
    exact ⟨rfl, (BitVec.add_zero _).symm⟩
  | succ n ih =>
    obtain ⟨htsub, hdiv⟩ := ih
    obtain ⟨htsub', hdiv'⟩ := timerUnit_divider (timerTick_inv h n)
    rw [timerTick_succ, htsub', hdiv', htsub, hdiv]
    split
    · refine ⟨by omega, ?_⟩
      rw [show (s.timer.tsub + (n + 1)) / 16 = (s.timer.tsub + n) / 16 + 1 by omega, BitVec.ofNat_add, BitVec.add_assoc]
      rfl
    · exact ⟨by omega, by rw [show (s.timer.tsub + (n + 1)) / 16 = (s.timer.tsub + n) / 16 by omega]⟩

theorem timerTick_of_disabled (h : s.TimerInv) (hen : s.timer.tac.getLsbD 2 = false) (n : Nat) :
    (s.timerTick n).timer.tima = s.timer.tima ∧ (s.timerTick n).timer.tacc = s.timer.tacc ∧
      (s.timerTick n).iflag = s.iflag := by
  induction n with
  | zero => exact ⟨rfl, rfl, rfl⟩
  | succ n ih =>
    obtain ⟨-, htac, -⟩ := timerTick_settings h n
    rw [timerTick_succ, timerUnit_of_disabled (timerTick_inv h n) (htac.symm ▸ hen)]
    exact ih

/-! ### Counting with the timer enabled -/

theorem threshold_pos (t : Timer) : 0 < t.threshold := by
  have pos : ∀ x : BitVec 2, 0 < Config.timerThreshold x := by decide
  exact pos _

theorem threshold_timerTick (h : s.TimerInv) (n : Nat) : (s.timerTick n).timer.threshold = s.timer.threshold := by
  obtain ⟨-, htac, -⟩ := timerTick_settings h n
  rw [Timer.threshold, htac]
  rfl

/-- The unit after the `n`-th, `n` counted from a `tacc` of 0: the quotient by the threshold grows only when the remainder
returns to 0. -/
theorem succ_div_mod {T : Nat} (hT : 0 < T) (n : Nat) :
    (n % T + 1 < T ∧ (n + 1) / T = n / T ∧ (n + 1) % T = n % T + 1) ∨
    (n % T + 1 ≥ T ∧ (n + 1) / T = n / T + 1 ∧ (n + 1) % T = 0) := by
  have hn := Nat.mod_add_div n T
  have hmod := Nat.mod_lt n hT
  by_cases h : n % T + 1 < T
  · exact .inl ⟨h, (Nat.div_mod_unique hT).2 ⟨by omega, h⟩⟩
  · exact .inr ⟨Nat.le_of_not_lt h, (Nat.div_mod_unique hT).2 ⟨by rw [Nat.mul_succ]; omega, hT⟩⟩

/-- Before the overflow, `TIMA` has grown by one for every threshold's worth of units. -/
theorem timerTick_counts (h : s.TimerInv) (hen : s.timer.tac.getLsbD 2 = true) (hacc : s.timer.tacc = 0) {n : Nat}
    (hn : n < (256 - s.timer.tima.toNat) * s.timer.threshold) :
    (s.timerTick n).timer.tacc = n % s.timer.threshold ∧
      (s.timerTick n).timer.tima.toNat = s.timer.tima.toNat + n / s.timer.threshold ∧ (s.timerTick n).iflag = s.iflag := by
  have hT := threshold_pos s.timer
  induction n with
  | zero => rw [Nat.zero_mod, Nat.zero_div]; exact ⟨hacc, rfl, rfl⟩
  | succ n ih =>
    obtain ⟨htacc, htima, hif⟩ := ih (by omega)
    obtain ⟨-, htac, -⟩ := timerTick_settings h n
    have hen' : (s.timerTick n).timer.tac.getLsbD 2 = true := htac.symm ▸ hen
    have hthreshold := threshold_timerTick h n
    rw [timerTick_succ]
    rcases succ_div_mod hT n with ⟨hlt, hdiv, hmod⟩ | ⟨hge, hdiv, hmod⟩
    · rw [timerUnit_of_lt (timerTick_inv h n) hen' (by rw [htacc, hthreshold]; exact hlt), hdiv, hmod, ← htacc]
      exact ⟨rfl, htima, hif⟩
    · have hbound := (Nat.div_lt_iff_lt_mul hT).2 hn
      have hne : (s.timerTick n).timer.tima ≠ 0xFF := fun heq => by
        rw [heq, show (0xFF : Byte).toNat = 255 from rfl] at htima
        omega
      rw [timerUnit_of_ge (timerTick_inv h n) hen' (by rw [htacc, hthreshold]; exact hge), if_neg hne, hdiv, hmod]
      refine ⟨rfl, ?_, hif⟩
      show ((s.timerTick n).timer.tima + 1).toNat = _
      rw [BitVec.toNat_add, htima, show (1 : Byte).toNat = 1 from rfl]
      omega

/-- The unit numbered `(256 - TIMA) * T` is the one at which `TIMA` overflows. -/
theorem timerTick_overflows (h : s.TimerInv) (hen : s.timer.tac.getLsbD 2 = true) (hacc : s.timer.tacc = 0) {t : State}
    (ht : t = s.timerTick ((256 - s.timer.tima.toNat) * s.timer.threshold)) :
    t.timer.tima = s.timer.tma ∧ t.timer.tacc = 0 ∧ t.iflag = s.iflag ||| 0x04 := by
  have hT := threshold_pos s.timer
  have hlt := s.timer.tima.isLt
  obtain ⟨n, hn⟩ := Nat.exists_eq_succ_of_ne_zero (Nat.mul_pos (show 0 < 256 - s.timer.tima.toNat by omega) hT).ne'
  obtain ⟨htacc, htima, hif⟩ := timerTick_counts h hen hacc (n := n) (by omega)
  obtain ⟨htma, htac, -⟩ := timerTick_settings h n
  have hlast : n / s.timer.threshold = 255 - s.timer.tima.toNat ∧ n % s.timer.threshold = s.timer.threshold - 1 := by
    refine (Nat.div_mod_unique hT).2 ⟨?_, by omega⟩
    rw [show 256 - s.timer.tima.toNat = 255 - s.timer.tima.toNat + 1 by omega, Nat.succ_mul, Nat.mul_comm] at hn
    omega
  have hmax : (s.timerTick n).timer.tima = 0xFF := BitVec.eq_of_toNat_eq (by rw [htima, hlast.1]; show _ = 255; omega)
  rw [ht, hn, Nat.succ_eq_add_one, timerTick_succ,
    timerUnit_of_ge (timerTick_inv h n) (htac.symm ▸ hen) (by rw [htacc, hlast.2, threshold_timerTick h n]; omega), if_pos hmax]
  exact ⟨htma, rfl, by rw [← hif]; rfl⟩

/-- The clock-select is the two low bits of `TAC` (R41). -/
theorem threshold_eq (t : Timer) : t.threshold = Config.timerThreshold (t.tac.setWidth 2) := by
  have select : ∀ x : BitVec 3, x.extractLsb' 0 2 = x.setWidth 2 := by decide
  rw [Timer.threshold, select]

/-- Settles O54: the unit in its three cases, and what they come to when counted. -/
theorem timerCounts : Obligations.TimerCounts := by
  intro s h
  refine ⟨fun n => timerTick_frame h n rfl, rfl, timerTick_succ s, timerUnit_divider h, ?unit, ?sixteen, timerTick_of_disabled h,
    ?count⟩
  case unit =>
    intro hen T t
    have hT : T = s.timer.threshold := (threshold_eq s.timer).symm
    clear_value T
    subst hT
    refine ⟨fun hlt => ?_, fun hge => ?_⟩
    · rw [show t = _ from timerUnit_of_lt h hen hlt]
      exact ⟨rfl, rfl, rfl⟩
    · rw [show t = _ from timerUnit_of_ge h hen hge]
      split
      · exact ⟨rfl, rfl, rfl⟩
      · exact ⟨rfl, rfl, rfl⟩
  case sixteen =>
    obtain ⟨htsub, hdiv⟩ := timerTick_divider h 16
    have hsub : s.timer.tsub < 16 := h.1
    rw [show (s.timer.tsub + 16) / 16 = 1 by omega] at hdiv
    exact ⟨hdiv, htsub.trans (by omega)⟩
  case count =>
    intro hen hacc T
    have hT : T = s.timer.threshold := (threshold_eq s.timer).symm
    clear_value T
    subst hT
    refine ⟨fun n hn => ?_, timerTick_overflows h hen hacc rfl⟩
    obtain ⟨-, hcount⟩ := timerTick_counts h hen hacc hn
    exact hcount

end Sys2Proof.Machine
end

section
/-! PROOFS. The scanline render and its sprites (spec 60_exceptions.md R356 to R362). -/

namespace Sys2Proof.Machine

variable (s : State)

/-! ### The drawing order (R361) -/

/-- `o` is drawn before `o'`: larger `X` first, among equal `X` the larger slot first. -/
abbrev Sprite.DrawnBefore (o o' : Sprite) : Prop := o.x > o'.x ∨ (o.x = o'.x ∧ o.slot > o'.slot)

theorem Sprite.before_iff (o o' : Sprite) : o.before o' = true ↔ o.DrawnBefore o' := by
  simp only [Sprite.before, Bool.or_eq_true, Bool.and_eq_true, decide_eq_true_eq]

theorem Sprite.DrawnBefore.trans {o p q : Sprite} (h : o.DrawnBefore p) (h' : p.DrawnBefore q) : o.DrawnBefore q := by
  unfold Sprite.DrawnBefore at *; omega

/-- Two sprites in different slots are in order one way or the other. -/
theorem Sprite.drawnBefore_of_not {o p : Sprite} (hslot : o.slot ≠ p.slot) (h : ¬o.DrawnBefore p) : p.DrawnBefore o := by
  unfold Sprite.DrawnBefore at *; omega

theorem pairwise_insertSprite {o : Sprite} {l : List Sprite} (hslot : ∀ p ∈ l, o.slot ≠ p.slot)
    (hl : l.Pairwise Sprite.DrawnBefore) : (insertSprite o l).Pairwise Sprite.DrawnBefore := by
  induction l with
  | nil => exact List.pairwise_singleton _ o
  | cons p l ih =>
    obtain ⟨hp, hl'⟩ := List.pairwise_cons.1 hl
    obtain ⟨hne, hslot⟩ := List.forall_mem_cons.1 hslot
    unfold insertSprite
    split
    case isTrue h =>
      have h := (Sprite.before_iff o p).1 h
      exact List.pairwise_cons.2 ⟨List.forall_mem_cons.2 ⟨h, fun q hq => h.trans (hp q hq)⟩, hl⟩
    case isFalse h =>
      have h := Sprite.drawnBefore_of_not hne (mt (Sprite.before_iff o p).2 h)
      refine List.pairwise_cons.2 ⟨fun q hq => ?_, ih hslot hl'⟩
      rcases mem_insertSprite.1 hq with rfl | hq
      · exact h
      · exact hp q hq

theorem pairwise_foldr_insertSprite {l : List Sprite} (hslot : l.Pairwise fun o p => o.slot ≠ p.slot) :
    (l.foldr insertSprite []).Pairwise Sprite.DrawnBefore := by
  induction l with
  | nil => exact List.Pairwise.nil
  | cons o l ih =>
    obtain ⟨ho, hl⟩ := List.pairwise_cons.1 hslot
    exact pairwise_insertSprite (fun p hp => ho p (mem_foldr_insertSprite.1 hp)) (ih hl)

theorem length_insertSprite (o : Sprite) (l : List Sprite) : (insertSprite o l).length = l.length + 1 := by
  induction l with
  | nil => rfl
  | cons p l ih =>
    unfold insertSprite
    split
    · rfl
    · rw [List.length_cons, ih, List.length_cons]

theorem length_foldr_insertSprite (l : List Sprite) : (l.foldr insertSprite []).length = l.length := by
  induction l with
  | nil => rfl
  | cons o l ih => rw [List.foldr_cons, length_insertSprite, ih, List.length_cons]

theorem length_spritesOf_le (y : Nat) : (s.spritesOf y).length ≤ 10 := by
  rw [State.spritesOf, length_foldr_insertSprite]
  exact List.length_take_le 10 _

/-- The sprites of a line stand in drawing order: the slots of the entries are all different. -/
theorem pairwise_spritesOf (y : Nat) : (s.spritesOf y).Pairwise Sprite.DrawnBefore := by
  have slots : ((List.range 40).map s.sprite).Pairwise fun o p => o.slot ≠ p.slot :=
    List.pairwise_map.2 List.nodup_range
  exact pairwise_foldr_insertSprite ((slots.filter _).take)

theorem sprite_mem_spritesOf_iff (y k : Nat) : s.sprite k ∈ s.spritesOf y ↔ s.Selected y k := by
  rw [mem_spritesOf]
  refine ⟨fun ⟨j, hj, heq⟩ => ?_, fun h => ⟨k, h, rfl⟩⟩
  have hslot : k = j := congrArg Sprite.slot heq
  exact hslot ▸ hj

/-! ### The row that is written (R356) -/

theorem row_renderLine_self (hp : s.ppu.pix.wf) (y : Nat) : (s.renderLine y).ppu.pix.row y = s.lineOf y :=
  (renderLine_row s hp y y).trans (if_pos rfl)

theorem row_renderLine_ne (hp : s.ppu.pix.wf) {y y' : Nat} (h : y' ≠ y) : (s.renderLine y).ppu.pix.row y' = s.ppu.pix.row y' :=
  (renderLine_row s hp y y').trans (if_neg h)

theorem getD_backgroundRow (y : Nat) {x : Nat} (hx : x < 160) :
    (s.backgroundRow y).getD x 0 = shade s.ppu.bgp (s.bgIndex y x) := by
  rw [State.backgroundRow, List.getD_eq_getElem?_getD, List.getElem?_map, List.getElem?_range hx]
  rfl

/-- The four bytes of an entry on the bus (R360). -/
theorem sprite_eq_peek {k : Nat} (hk : k < 40) {b : Nat → Byte}
    (hb : b = fun i => s.peek (0xFE00 + BitVec.ofNat 16 (4 * k + i))) :
    s.sprite k = { slot := k, y := (b 0).toNat - 16, x := (b 1).toNat - 8, tile := b 2, attr := b 3 } := by
  have hbyte : ∀ i < 4, b i = s.ram.read (oamAddr (4 * k + i)) := fun i hi => by rw [hb]; exact peek_oam s (by omega)
  rw [hbyte 0 (by decide), hbyte 1 (by decide), hbyte 2 (by decide), hbyte 3 (by decide)]
  rfl

/-- Settles O57: the render sets one row of the buffer, and its sprites are the selected entries, sorted. -/
theorem renderLine : Obligations.RenderLine := by
  intro s y hp hy t
  have hrow : t.ppu.pix.row y = s.lineOf y := row_renderLine_self s hp y
  refine ⟨rfl, setRow_wf hp hy (lineOf_length s y), hrow ▸ lineOf_length s y, fun y' h => row_renderLine_ne s hp h,
    fun hoff x hx => ?background, length_spritesOf_le s y, pairwise_spritesOf s y,
    fun k _ => sprite_mem_spritesOf_iff s y k, fun o => (mem_spritesOf s y o).1, fun k hk => sprite_eq_peek s hk rfl⟩
  case background =>
    have hline : s.lineOf y = s.backgroundRow y := if_neg (Bool.eq_false_iff.1 hoff)
    rw [PixelBuffer.cell, hrow, hline, getD_backgroundRow s y hx]

/-! ### One sprite drawn over a row (R362) -/

variable {s} {y : Nat}

/-- The column of a sprite at `x`. -/
abbrev Sprite.column (o : Sprite) (x : Nat) : Nat := ((x : Int) - o.x).toNat

/-- The sprite covers `x` with a visible colour. -/
abbrev State.Shows (s : State) (y x : Nat) (o : Sprite) : Prop :=
  o.x ≤ (x : Int) ∧ (x : Int) < o.x + 8 ∧ s.spriteIndex o y (o.column x) ≠ 0 ∧
  (o.attr.getLsbD 7 = false ∨ s.bgIndex y x = 0)

/-- The colour of the sprite at `x`. -/
abbrev State.spriteShade (s : State) (y x : Nat) (o : Sprite) : Shade :=
  shade (if o.attr.getLsbD 4 then s.ppu.obp1 else s.ppu.obp0) (s.spriteIndex o y (o.column x))

/-- A column draws the cell it falls on, if it is visible there. -/
theorem getD_drawSpritePixel_of_shows {o : Sprite} {row : List Shade} {x : Nat} (hx : x < 160) (hrow : row.length = 160)
    (h : s.Shows y x o) : (s.drawSpritePixel y o row (o.column x)).getD x 0 = s.spriteShade y x o := by
  obtain ⟨hleft, -, hindex, hpriority⟩ := h
  have hcell : o.x + (o.column x : Int) = x := by unfold Sprite.column; omega
  have hbit : bit o.attr 7 = false ∨ s.bgIndex y (x : Int).toNat = 0 := hpriority
  unfold State.drawSpritePixel
  simp only [hcell]
  rw [if_pos ⟨by omega, by omega, hindex, hbit⟩, Int.toNat_natCast, List.getD_eq_getElem?_getD,
    List.getElem?_set_self (by omega)]
  rfl

/-- A column draws no other cell, and none where it is not visible. -/
theorem getD_drawSpritePixel_of_not {o : Sprite} {row : List Shade} {x j : Nat}
    (h : ¬(o.x + (j : Int) = x ∧ s.Shows y x o)) (hj : j < 8) : (s.drawSpritePixel y o row j).getD x 0 = row.getD x 0 := by
  unfold State.drawSpritePixel
  simp only
  split
  case isFalse => rfl
  case isTrue hdraw =>
    obtain ⟨hleft, hright, hindex, hpriority⟩ := hdraw
    rw [List.getD_eq_getElem?_getD, List.getElem?_set_ne, ← List.getD_eq_getElem?_getD]
    intro hcell
    have hx : o.x + (j : Int) = x := by omega
    have hcolumn : o.column x = j := by unfold Sprite.column; omega
    rw [hcell] at hpriority
    exact h ⟨hx, by omega, by omega, hcolumn ▸ hindex, hpriority⟩

theorem foldl_drawSpritePixel_length (o : Sprite) (row : List Shade) (l : List Nat) :
    (l.foldl (s.drawSpritePixel y o) row).length = row.length := by
  induction l generalizing row with
  | nil => rfl
  | cons j l ih => rw [List.foldl_cons, ih, drawSpritePixel_length]

theorem getD_foldl_drawSpritePixel {o : Sprite} {row : List Shade} {x n : Nat} (hx : x < 160) (hrow : row.length = 160)
    (hn : n ≤ 8) :
    ((List.range n).foldl (s.drawSpritePixel y o) row).getD x 0 =
      if s.Shows y x o ∧ o.column x < n then s.spriteShade y x o else row.getD x 0 := by
  induction n with
  | zero => rw [if_neg fun h => Nat.not_lt_zero _ h.2]; rfl
  | succ n ih =>
    rw [List.range_succ, List.foldl_append, List.foldl_cons, List.foldl_nil]
    by_cases h : s.Shows y x o ∧ o.column x = n
    · obtain ⟨hshows, rfl⟩ := h
      rw [if_pos ⟨hshows, Nat.lt_succ_self _⟩]
      exact getD_drawSpritePixel_of_shows hx ((foldl_drawSpritePixel_length ..).trans hrow) hshows
    · have hother : ¬(o.x + (n : Int) = x ∧ s.Shows y x o) := fun ⟨hcell, hshows⟩ =>
        h ⟨hshows, by unfold Sprite.column; omega⟩
      have hcolumn : s.Shows y x o ∧ o.column x < n + 1 ↔ s.Shows y x o ∧ o.column x < n :=
        and_congr_right fun hshows => by
          have hne : o.column x ≠ n := fun heq => h ⟨hshows, heq⟩
          omega
      rw [getD_drawSpritePixel_of_not hother (by omega), ih (by omega)]
      simp only [hcolumn]

/-- A sprite drawn over a row shows where it is visible and nowhere else. -/
theorem getD_drawSprite {o : Sprite} {row : List Shade} {x : Nat} (hx : x < 160) (hrow : row.length = 160) :
    (s.drawSprite y row o).getD x 0 = if s.Shows y x o then s.spriteShade y x o else row.getD x 0 := by
  have hcolumn : s.Shows y x o ∧ o.column x < 8 ↔ s.Shows y x o :=
    and_iff_left_of_imp fun ⟨hleft, hright, _⟩ => by unfold Sprite.column; omega
  rw [State.drawSprite, getD_foldl_drawSpritePixel hx hrow (Nat.le_refl 8)]
  simp only [hcolumn]

/-! ### The sprites of a line drawn in turn -/

theorem foldl_drawSprite_length (row : List Shade) (l : List Sprite) : (l.foldl (s.drawSprite y) row).length = row.length := by
  induction l generalizing row with
  | nil => rfl
  | cons o l ih => rw [List.foldl_cons, ih, drawSprite_length]

theorem getD_foldl_drawSprite_of_none {row : List Shade} {x : Nat} (hx : x < 160) (hrow : row.length = 160) {l : List Sprite}
    (h : ∀ o ∈ l, ¬s.Shows y x o) : (l.foldl (s.drawSprite y) row).getD x 0 = row.getD x 0 := by
  induction l generalizing row with
  | nil => rfl
  | cons o l ih =>
    obtain ⟨ho, h⟩ := List.forall_mem_cons.1 h
    rw [List.foldl_cons, ih ((drawSprite_length ..).trans hrow) h, getD_drawSprite hx hrow, if_neg ho]

/-- A pixel shows the sprite drawn last of those that are visible there. -/
theorem getD_foldl_drawSprite_of_top {row : List Shade} {x : Nat} (hx : x < 160) (hrow : row.length = 160) {l : List Sprite}
    (hl : l.Pairwise Sprite.DrawnBefore) {o : Sprite} (ho : o ∈ l) (hshows : s.Shows y x o)
    (htop : ∀ p ∈ l, s.Shows y x p → ¬o.DrawnBefore p) : (l.foldl (s.drawSprite y) row).getD x 0 = s.spriteShade y x o := by
  obtain ⟨l₁, l₂, rfl⟩ := List.append_of_mem ho
  have hrow₁ : (l₁.foldl (s.drawSprite y) row).length = 160 := (foldl_drawSprite_length ..).trans hrow
  obtain ⟨hafter, -⟩ := List.pairwise_cons.1 (List.pairwise_append.1 hl).2.1
  have none : ∀ p ∈ l₂, ¬s.Shows y x p := fun p hp hshows =>
    htop p (List.mem_append_right _ (List.mem_cons_of_mem _ hp)) hshows (hafter p hp)
  rw [List.foldl_append, List.foldl_cons, getD_foldl_drawSprite_of_none hx ((drawSprite_length ..).trans hrow₁) none,
    getD_drawSprite hx hrow₁, if_pos hshows]

/-- Settles O58: the row is the background with the sprites drawn over it in their order. -/
theorem spritePixels : Obligations.SpritePixels := by
  intro s y x hp hy hx hon column visible cell
  have hrow : (s.backgroundRow y).length = 160 := by simp [State.backgroundRow]
  have hcell : cell = ((s.spritesOf y).foldl (s.drawSprite y) (s.backgroundRow y)).getD x 0 := by
    have hline : s.lineOf y = (s.spritesOf y).foldl (s.drawSprite y) (s.backgroundRow y) := if_pos hon
    rw [← hline, ← row_renderLine_self s hp]
    rfl
  rw [hcell]
  refine ⟨fun hnone => ?_, fun k hk hvisible htop => ?_⟩
  · rw [getD_foldl_drawSprite_of_none hx hrow, getD_backgroundRow s y hx]
    intro o ho
    obtain ⟨k, hk, rfl⟩ := (mem_spritesOf s y o).1 ho
    exact hnone k hk
  · refine getD_foldl_drawSprite_of_top hx hrow (pairwise_spritesOf s y) ((sprite_mem_spritesOf_iff s y k).2 hk) hvisible ?_
    intro o ho hshows hbefore
    obtain ⟨j, hj, rfl⟩ := (mem_spritesOf s y o).1 ho
    have hslots : (s.sprite k).x > (s.sprite j).x ∨ ((s.sprite k).x = (s.sprite j).x ∧ k > j) := hbefore
    rcases htop j hj hshows with rfl | h | h <;> omega

end Sys2Proof.Machine
end
